-- ==== Sys2Proof/Word.lean ====
section
/-! DEFINITION. The word types of the compensation unit (spec/00_scope.md R8): a byte of the sensor
register space, a 16-bit coefficient pattern, a 32-bit word read as `i32`, `u32` or `f32` by the
operation that uses it, a 64-bit word for the one widened product, and the 72-bit request. -/

namespace Sys2Proof

/-- A byte of the sensor register space (R30), and an address of that space. -/
abbrev Byte := BitVec 8

/-- The 16-bit pattern of one calibration register (R10). -/
abbrev Half := BitVec 16

/-- A 32-bit pattern: `i32` and `u32` are the same bits, read by the operation (R8, R65). -/
abbrev Word := BitVec 32

/-- An `f32` travels as its 32-bit pattern (R53, R67). -/
abbrev F32 := BitVec 32

/-- The type of the one 64-bit widening (R66, R121). -/
abbrev Wide := BitVec 64

/-- A request as one word, format `REQ72` (R50). -/
abbrev Request := BitVec 72

end Sys2Proof
end

