-- ==== Sys2Proof/Syntax.lean ====
section
/-! DEFINITION. The eight operations of the unit (spec/30_encoding.md R52), one constructor for each row
of spec/opcode_table.json. Every request carries both operand fields `A` and `B` (R50); they are kept
even where the operation ignores them, so that what an operation ignores is a fact about its meaning
and not about the syntax. -/

namespace Sys2Proof

/-- An operation of the unit with its operand fields. -/
inductive Instr where
  /-- `CAL.LOAD`, opcode 0x10 (R80): `A` and `B` ignored. -/
  | calLoad (a b : Word)
  /-- `ASM.UT`, opcode 0x20 (R90): `A[15:8] = msb`, `A[7:0] = lsb`; `B` ignored. -/
  | asmUt (a b : Word)
  /-- `ASM.UP`, opcode 0x21 (R91): `A[23:16] = msb`, `A[15:8] = lsb`, `A[7:0] = xlsb`; `B` ignored. -/
  | asmUp (a b : Word)
  /-- `COMP.T`, opcode 0x30 (R100): `A = ut`; `B` ignored. -/
  | compT (a b : Word)
  /-- `COMP.P`, opcode 0x31 (R110): `A = up`, `B = b5`. -/
  | compP (a b : Word)
  /-- `COMP.ALT`, opcode 0x32 (R130): `A = pressure`; `B` ignored. -/
  | compAlt (a b : Word)
  /-- `SET.OSS l`, opcodes 0x40 to 0x43 (R140): the level is the immediate `OPC[1:0]` (R54), so an
  out-of-range level cannot be written down; `A` and `B` ignored. -/
  | setOss (l : BitVec 2) (a b : Word)
  /-- `SET.SLP`, opcode 0x50 (R141): `A = pa`; `B` ignored. -/
  | setSlp (a b : Word)
  deriving DecidableEq, Repr

end Sys2Proof
end

