-- ==== Sys2Proof/WellFormed.lean ====
section
/-! DEFINITION. Which requests are well formed (spec/30_encoding.md R50, R52, R54, R55). An opcode is
legal when its family nibble is one of the five listed families and its function nibble is one the
family lists. The operand fields are never checked (R50: any value is accepted). -/

namespace Sys2Proof

/-- The family nibble `OPC[7:4]` (R50). -/
def opcFamily (opc : BitVec 8) : BitVec 4 := opc.extractLsb' 4 4

/-- The function nibble `OPC[3:0]` (R50). -/
def opcFunction (opc : BitVec 8) : BitVec 4 := opc.extractLsb' 0 4

/-- Check 1: the family is one of decoder 1, assembly 2, compensation 3, configuration 4 and 5 (R52). -/
def familyListed (opc : BitVec 8) : Bool :=
  1 ≤ (opcFamily opc).toNat && (opcFamily opc).toNat ≤ 5

/-- Check 2: how many function codes, from 0 up, the family lists: `CAL.LOAD` and `SET.SLP` only 0, the
assemblers 0 and 1, the compensations 0 to 2, and `SET.OSS` 0 to 3, since `OPC[3:2]` must be 00
(R52, R54). -/
def familySize (family : BitVec 4) : Nat :=
  if family = 1 then 1
  else if family = 2 then 2
  else if family = 3 then 3
  else if family = 4 then 4
  else if family = 5 then 1
  else 0

/-- Check 2: the function is one the family lists (R52, R54). -/
def functionListed (opc : BitVec 8) : Bool :=
  (opcFunction opc).toNat < familySize (opcFamily opc)

/-- An opcode of R52. -/
def legalOpc (opc : BitVec 8) : Bool := familyListed opc && functionListed opc

/-- A request is well formed when its opcode, bits 71:64, is legal (R50, R55). -/
def Request.wellFormed (w : Request) : Bool := legalOpc (w.extractLsb' 64 8)

/-- Every operation that can be written down is well formed: the operand fields take any value (R50)
and the level of `SET.OSS` is one of 0 to 3 by its type (R54). The refusing checks are those on a
request's opcode above. -/
def Instr.wellFormed : Instr → Bool
  | .calLoad _ _ => true
  | .asmUt _ _ => true
  | .asmUp _ _ => true
  | .compT _ _ => true
  | .compP _ _ => true
  | .compAlt _ _ => true
  | .setOss _ _ _ => true
  | .setSlp _ _ => true

end Sys2Proof
end

