-- ==== Sys2Proof/Decode.lean ====
section
/-! DEFINITION. The request decoder and, after it, the encoder (spec/30_encoding.md R50, R52 to R55,
spec/opcode_table.json). The decoder is total: every 72-bit request is one of the eight operations or
is refused with the opcode that names no operation. -/

namespace Sys2Proof

/-- The answer of the decoder. -/
inductive Decoded where
  /-- the request is this operation -/
  | instr (i : Instr)
  /-- the opcode is not listed in R52 (R55) -/
  | illegalOp (opc : BitVec 8)
  deriving DecidableEq, Repr

/-- `OPC`, bits 71:64 of a request (R50). -/
def reqOpc (w : Request) : BitVec 8 := w.extractLsb' 64 8

/-- `A`, bits 63:32 of a request (R50). -/
def reqA (w : Request) : Word := w.extractLsb' 32 32

/-- `B`, bits 31:0 of a request (R50). -/
def reqB (w : Request) : Word := w.extractLsb' 0 32

/-- The operation an opcode names, with its operand fields (R52, R54). -/
def decodeFields (opc : BitVec 8) (a b : Word) : Decoded :=
  if opc = 0x10 then .instr (.calLoad a b)
  else if opc = 0x20 then .instr (.asmUt a b)
  else if opc = 0x21 then .instr (.asmUp a b)
  else if opc = 0x30 then .instr (.compT a b)
  else if opc = 0x31 then .instr (.compP a b)
  else if opc = 0x32 then .instr (.compAlt a b)
  else if opc.extractLsb' 2 6 = 0b010000 then .instr (.setOss (opc.extractLsb' 0 2) a b)
  else if opc = 0x50 then .instr (.setSlp a b)
  else .illegalOp opc

/-- The decoder (R50, R52, R55): the operation is decided by `OPC` alone. -/
def decode (w : Request) : Decoded := decodeFields (reqOpc w) (reqA w) (reqB w)

/-- The opcode of an operation (R52, R54). -/
def encodeOpc : Instr → BitVec 8
  | .calLoad _ _ => 0x10
  | .asmUt _ _ => 0x20
  | .asmUp _ _ => 0x21
  | .compT _ _ => 0x30
  | .compP _ _ => 0x31
  | .compAlt _ _ => 0x32
  | .setOss l _ _ => 0b010000#6 ++ l
  | .setSlp _ _ => 0x50

/-- The operand field `A` of an operation (R53). -/
def operandA : Instr → Word
  | .calLoad a _ => a
  | .asmUt a _ => a
  | .asmUp a _ => a
  | .compT a _ => a
  | .compP a _ => a
  | .compAlt a _ => a
  | .setOss _ a _ => a
  | .setSlp a _ => a

/-- The operand field `B` of an operation (R53). -/
def operandB : Instr → Word
  | .calLoad _ b => b
  | .asmUt _ b => b
  | .asmUp _ b => b
  | .compT _ b => b
  | .compP _ b => b
  | .compAlt _ b => b
  | .setOss _ _ b => b
  | .setSlp _ b => b

/-- The request word of an operation: `OPC` highest, then `A`, then `B` (R50). -/
def encode (i : Instr) : Request := encodeOpc i ++ operandA i ++ operandB i

/-- A row of spec/opcode_table.json: the bits it fixes and their values. -/
structure OpcodeRow where
  mnemonic : String
  mask : Request
  value : Request
  deriving DecidableEq, Repr

/-- spec/opcode_table.json, row by row. -/
def opcodeTable : List OpcodeRow :=
  [ ⟨"CAL.LOAD", 0xFF0000000000000000, 0x100000000000000000⟩,
    ⟨"ASM.UT", 0xFF0000000000000000, 0x200000000000000000⟩,
    ⟨"ASM.UP", 0xFF0000000000000000, 0x210000000000000000⟩,
    ⟨"COMP.T", 0xFF0000000000000000, 0x300000000000000000⟩,
    ⟨"COMP.P", 0xFF0000000000000000, 0x310000000000000000⟩,
    ⟨"COMP.ALT", 0xFF0000000000000000, 0x320000000000000000⟩,
    ⟨"SET.OSS", 0xFC0000000000000000, 0x400000000000000000⟩,
    ⟨"SET.SLP", 0xFF0000000000000000, 0x500000000000000000⟩ ]

/-- A request matches a row when it has the row's values at the bits the row fixes. -/
def OpcodeRow.matches (r : OpcodeRow) (w : Request) : Bool := w &&& r.mask == r.value

/-- The mnemonic of an operation (R52). -/
def mnemonicOf : Instr → String
  | .calLoad _ _ => "CAL.LOAD"
  | .asmUt _ _ => "ASM.UT"
  | .asmUp _ _ => "ASM.UP"
  | .compT _ _ => "COMP.T"
  | .compP _ _ => "COMP.P"
  | .compAlt _ _ => "COMP.ALT"
  | .setOss _ _ _ => "SET.OSS"
  | .setSlp _ _ => "SET.SLP"

/-- The instruction the decoder reads from the `nbits` low bits of `w`, numbered as
spec/opcode_table.json numbers them: a request is ONE 72-bit word, bit 0 its least significant bit
(R50). Bits above `nbits` are 0; a word of more than 72 bits is no request. -/
def decodeTableWord (nbits w : Nat) : Option Instr :=
  if nbits ≤ 72 then
    match decode (BitVec.ofNat 72 (w % 2 ^ nbits)) with
    | .instr i => some i
    | .illegalOp _ => none
  else none

end Sys2Proof
end

