-- ==== Sys2Proof/Machine/Arith.lean ====
section
/-! DEFINITION. The integer laws of spec/40_arithmetic_laws.md (R60 to R66) on 32-bit patterns. The
wrapping `+`, `-`, `*` of R60 are those of `BitVec 32`, the same bits for `i32` and `u32`; this file
names the operations whose signedness matters. -/

namespace Sys2Proof.Machine

/-- `wrap_s32(z)` and `wrap_u32(z)` as bits (R8): the 32-bit pattern congruent to `z` modulo 2^32. -/
def wrap32 (z : Int) : Word := BitVec.ofInt 32 z

/-- `sext_16` widened to `i32` (R8, R11). -/
def sext16 (h : Half) : Word := h.signExtend 32

/-- `zext_16` widened to `i32` or `u32` (R8, R11). -/
def zext16 (h : Half) : Word := h.setWidth 32

/-- `zext_8` widened (R82, R90, R91). -/
def zext8 (b : Byte) : Word := b.setWidth 32

/-- `x >>a n`: the arithmetic right shift of an `i32` (R62). -/
def asr (x : Word) (n : Nat) : Word := x.sshiftRight n

/-- `x >>l n`: the logical right shift of a `u32` (R62). -/
def lsr (x : Word) (n : Nat) : Word := x >>> n

/-- `x <<w n`: the left shift within 32 bits, bits shifted out discarded (R63). -/
def shl (x : Word) (n : Nat) : Word := x <<< n

/-- `a /t b`: signed division truncating toward zero, used only for `b ≠ 0` (R64). -/
def tdiv (a b : Word) : Word := a.sdiv b

/-- `a /u b`: unsigned floor division, used only for `b ≠ 0` (R65). -/
def udiv (a b : Word) : Word := a / b

/-- `(zext_64(a) * 2) /u zext_64(b)` computed in `u64` and narrowed (R66, R121). -/
def doubledQuotient64 (a b : Word) : Word :=
  ((a.setWidth 64 * 2#64 : Wide) / (b.setWidth 64 : Wide)).setWidth 32

/-- The signed comparison `a ≤ b` of two `i32` (R141). -/
def sle (a b : Word) : Bool := BitVec.sle a b

end Sys2Proof.Machine
end

