-- ==== Sys2Proof/Config.lean ====
section
/-! DEFINITION. What an instance of the unit fixes (spec/00_scope.md R7) and the values the spec leaves
open, as constants without a body. The instance parameters are the structure `Config`: a `State` keeps
the configuration it was built with, so that a claim about every state is a claim about every value of
the parameters. -/

namespace Sys2Proof

/-- `CAL_FETCH_MODE` (R7, R81): two 1-byte reads for each coefficient, or one 2-byte read. -/
inductive FetchMode where
  | bytewise
  | pairwise
  deriving DecidableEq, Repr

/-- `BusErr` (R7, R171): the payload of a bus failure, opaque to the unit, which copies it and never
inspects it. Any countable payload can be numbered (DESIGN CHOICE, log entry 5). -/
abbrev BusErr := Nat

/-- The instance parameters of R7 that are data. -/
structure Config where
  /-- `BUS_ADDR` (R17): the sensor's 7-bit bus address. -/
  busAddr : BitVec 7
  /-- `OSS_INIT` (R7): the reset value of `OSS`. -/
  ossInit : BitVec 2
  /-- `SLP_INIT` (R7): the reset value of `SLP`, an `i32` in pascals, not validated (R15, R201). -/
  slpInit : Word
  /-- `CAL_FETCH_MODE` (R7, R81). -/
  fetchMode : FetchMode
  deriving DecidableEq, Repr

/-- The defaults of R7, the parameters of every vector of spec/95_test_vectors.md. -/
def Config.standard : Config :=
  { busAddr := 0x77, ossInit := 0, slpInit := 101325, fetchMode := .bytewise }

/-- FREE VALUE (R40): whether bus transaction number `k` of those the environment scripts no answer
for succeeds (`none`) or fails with a payload. No body: nothing constrains it (DESIGN CHOICE, log entry 4). -/
opaque Config.freeFailure : Nat → Option BusErr

/-- FREE VALUE (R40): byte `i` of the data that bus transaction `k` returns where the environment
scripts none. No body: nothing constrains it (DESIGN CHOICE, log entry 4). -/
opaque Config.freeByte : Nat → Nat → Byte

/-- FREE VALUE (R67): the bits that decide the sign and payload of NaN result number `k`.
No body: nothing constrains it (DESIGN CHOICE, log entry 9). -/
opaque Config.freeNan : Nat → Word

/-- FREE VALUE (R135, U6): the altitude of a pressure of zero, drawn at count `k`: any binary32 value.
No body: nothing constrains it (DESIGN CHOICE, log entry 10). -/
opaque Config.freeAltitude : Nat → F32

/-- FREE VALUE (R58): byte `i` among the bytes the host holds, at count `k`, where it has read fewer.
No body: nothing constrains it (DESIGN CHOICE, log entry 24). -/
opaque Config.freeHeldByte : Nat → Nat → Byte

/-- FREE VALUE (R133): the power function `POW32` before its one named property is imposed
(`Sys2Proof.Machine.pow32`). A function of its two arguments alone; no body (DESIGN CHOICE, log entry 8). -/
opaque Config.freePow : F32 → F32 → F32

end Sys2Proof
end

