-- ==== Sys2Proof/Machine/Script.lean ====
section
/-! DEFINITION. What a host program is made of: the statements of spec/30_encoding.md R58 and the
pseudo-operations of R59 (spec/47_host_sequences.md). The host is the agent that issues requests and
performs the bus writes, bus reads and waits (spec/00_scope.md R5, R9). -/

namespace Sys2Proof.Machine

/-- Where the host takes the operands of a request from. -/
inductive ReqSource where
  /-- a request whose 72 bits are given: any operation with literal operands, or any other word; its
  results are those of the operation it is (R58) -/
  | word (w : Request)
  /-- `ASM.UT msb, lsb`: operands the first two bytes of the last read, result `ut` (R154) -/
  | asmUt
  /-- `ASM.UP msb, lsb, xlsb`: operands the first three bytes of the last read, result `up` (R155) -/
  | asmUp
  /-- `COMP.T ut`: results the temperature and `b5` (R156, R157) -/
  | compT
  /-- `COMP.P up, b5`: result the pressure (R157) -/
  | compP
  /-- `COMP.ALT p`: result the altitude (R158) -/
  | compAlt
  deriving DecidableEq, Repr

/-- What a host sequence ends `OK` with. -/
inductive ResultVar where
  | nothing
  | ut
  | up
  | temperature
  | pressure
  | altitude
  deriving DecidableEq, Repr

/-- A statement of a host sequence (R58, R150). -/
inductive Stmt where
  /-- `BUS.WR addr, byte` -/
  | busWr (addr byte : Byte)
  /-- `BUS.WR 0xF4, 0x34 + (oss << 6)` with `oss` the current value of `OSS` (R155) -/
  | busWrPressure
  /-- `BUS.RD addr, n` -/
  | busRd (addr : Byte) (n : Nat)
  /-- `WAIT d`, `d` in microseconds (R210) -/
  | wait (us : Nat)
  /-- `WAIT` for the duration `OSS` selects (R155, R211) -/
  | waitPressure
  /-- the end of `TEST_CONN`: `OK` when the first byte of the last read is `0x55`, else `INVALID_DEVICE_ID` (R152) -/
  | checkId
  /-- a request to the unit and its response (R58) -/
  | request (src : ReqSource)
  /-- `end OK(v)` -/
  | endOk (v : ResultVar)
  deriving DecidableEq, Repr

/-- The pseudo-operations a host program is a list of (R59, R150 to R160), and a straight-line
sequence of the program's own (R150). -/
inductive HostCall where
  /-- `NEW(config)` (R151): `BUS_ADDR`, `OSS_INIT` and `SLP_INIT` are taken from `cfg` -/
  | new (cfg : Config)
  /-- `TEST_CONN` (R152) -/
  | testConn
  /-- `INIT` (R153) -/
  | init
  /-- `ACQ.T -> ut` on its own (R154) -/
  | acqT
  /-- `ACQ.P -> up` on its own (R155) -/
  | acqP
  /-- `READ_T -> temperature_celsius` (R156) -/
  | readT
  /-- `READ_P -> pressure` (R157) -/
  | readP
  /-- `READ_ALT -> altitude` (R158) -/
  | readAlt
  /-- `SOFT_RESET` (R159) -/
  | softReset
  /-- `SET_OVERSAMPLING(level)` (R160) -/
  | setOversampling (level : BitVec 2)
  /-- `SET_SEA_LEVEL_PRESSURE(pa)` (R160) -/
  | setSeaLevelPressure (pa : Word)
  /-- a straight-line list of statements (R150) -/
  | statements (body : List Stmt)
  deriving DecidableEq, Repr

end Sys2Proof.Machine
end

