-- ==== Sys2Proof/Machine/State.lean ====
section
/-! DEFINITION. The state of the machine, its reset, and the reasons a step can stop.

The unit's own state is `cal`, `oss`, `slp`, `calv` (spec/10_state.md §1) and the configuration it was
built with (R17). Beside it stand the ports (the request and the response, R50, R51, R18), the bus as
the unit and the host see it (the answers the environment will give, R40, and the transactions and
waits issued so far, R41), and the host agent (spec/47_host_sequences.md). -/

namespace Sys2Proof.Machine

/-- The names of the eleven calibration registers, in the order of R10. -/
inductive Coef where
  | ac1 | ac2 | ac3 | ac4 | ac5 | ac6 | b1 | b2 | mb | mc | md
  deriving DecidableEq, Repr

/-- The calibration register file `CAL[0..10]`: eleven 16-bit patterns (R10). -/
structure Cal where
  ac1 : Half
  ac2 : Half
  ac3 : Half
  ac4 : Half
  ac5 : Half
  ac6 : Half
  b1 : Half
  b2 : Half
  mb : Half
  mc : Half
  md : Half
  deriving DecidableEq, Repr

/-- Every calibration register `0x0000` (R22). -/
def Cal.zero : Cal := ⟨0, 0, 0, 0, 0, 0, 0, 0, 0, 0, 0⟩

/-- The outcomes of an operation or a host sequence (R170). The status values 0x6 to 0xE are never
produced, so the type has no such member (U11). -/
inductive Status where
  | ok
  | busError
  | invalidDeviceId
  | invalidCalibration
  | tempDivZero
  | rejected
  | illegalOp
  deriving DecidableEq, Repr

/-- A response (R51). A result field without value is `none`; `berr` is present only with
`BUS_ERROR`. -/
structure Response where
  st : Status
  q0 : Option Word
  q1 : Option Word
  berr : Option BusErr
  deriving DecidableEq, Repr

/-- What the environment answers to one bus transaction (R33, R34, R40). A read takes its bytes from
the front of `bytes`; bytes that are not scripted are free values. -/
inductive BusAnswer where
  | ok (bytes : List Byte)
  | err (e : BusErr)
  deriving DecidableEq, Repr

/-- What the sensor and the clock see, in the order issued (R41). A transaction is recorded with whether
it succeeded. -/
inductive BusEvent where
  /-- `MemRead(addr, n)` (R33) -/
  | read (dev : BitVec 7) (addr : Byte) (n : Nat) (ok : Bool)
  /-- `MemWrite(addr, data.length, data)` (R34) -/
  | write (dev : BitVec 7) (addr : Byte) (data : List Byte) (ok : Bool)
  /-- `Wait(d)`: at least `us` microseconds pass here (R210) -/
  | wait (us : Nat)
  deriving DecidableEq, Repr

/-- How a host sequence ended (R150, R161): with a result, or with the first non-OK outcome. -/
inductive HostEnd where
  | ok (v : Option Word)
  | err (st : Status) (berr : Option BusErr)
  deriving DecidableEq, Repr

/-- What the host holds inside one sequence: the bytes last read, the raw codes, `b5` (R18: the host
holds it between `COMP.T` and `COMP.P`), the compensated values, and the last response taken. -/
structure HostVars where
  read : List Byte
  ut : Option Word
  up : Option Word
  temperature : Option Word
  b5 : Option Word
  pressure : Option Word
  altitude : Option Word
  answer : Option Response
  deriving DecidableEq, Repr

/-- Nothing read and nothing computed yet: the start of every sequence. -/
def HostVars.fresh : HostVars := ⟨[], none, none, none, none, none, none, none⟩

/-- The host agent: the sequences it has yet to begin, the statements left of the one in progress, the
request whose response it waits for, its variables, and how the last finished sequence ended. -/
structure HostState where
  calls : List HostCall
  todo : List Stmt
  awaiting : Option ReqSource
  vars : HostVars
  last : Option HostEnd
  deriving DecidableEq, Repr

/-- A host with nothing to do. -/
def HostState.idle : HostState := ⟨[], [], none, HostVars.fresh, none⟩

/-- The state of the machine. -/
structure State where
  /-- the configuration the instance was built with: `BUS_ADDR` (R17), `CAL_FETCH_MODE` (R81) and the
  two reset values (R7) -/
  cfg : Config
  /-- `CAL[0..10]` (R10) -/
  cal : Cal
  /-- `OSS`, the oversampling level (R14) -/
  oss : BitVec 2
  /-- `SLP`, the sea-level reference pressure, an `i32` in pascals (R15) -/
  slp : Word
  /-- `CALV`: false is `Uninitialized`, true is `Calibrated` (R16) -/
  calv : Bool
  /-- the request presented to the unit and not yet executed (R18, R50) -/
  request : Option Request
  /-- the response to the last request, until the next request or until the host takes it (R18, R51) -/
  response : Option Response
  /-- the environment's answers to the next bus transactions, the nearest first (R40) -/
  answers : List BusAnswer
  /-- the model's own: how many free values have been drawn (DESIGN CHOICE, log entry 4) -/
  draws : Nat
  /-- the bus transactions and waits issued so far, the earliest first (R41) -/
  busLog : List BusEvent
  /-- the host agent (R150) -/
  host : HostState
  deriving DecidableEq, Repr

/-- Why a step can stop with a fault. -/
inductive Fault where
  /-- Raised by the host's step: the host waits for the response to a request although no request is
  pending and no response is there. Every request is a blocking call (R41), so nothing ever continues
  from here: a stuck state. No run of the machine from a state without this defect reaches it. Safe:
  the model stops where the spec gives no step. -/
  | hostBlocked
  deriving DecidableEq, Repr

/-- Why a step can be refused. -/
inductive Refusal where
  /-- Raised by exec's arm of an operation that has no meaning yet: none is left. Safe. -/
  | notModelled (mnemonic : String)
  /-- Raised by `present`: a second request presented before the first has been executed (R184, U2:
  the model gives no meaning to overlap). Safe. -/
  | requestInFlight
  /-- Raised by the host's step: a bus write that the spec does not describe (U3: refuse for writes the
  source does not describe). Safe. -/
  | undescribedWrite
  /-- Raised by the host's step: a bus read of no bytes, which is no transaction (R33: n ≥ 1). Safe. -/
  | emptyRead
  /-- Raised by the host's step: the statement uses a result of the unit that has no value, because no
  response of this sequence carried it (R51: a host must not use the bits; U11: refuse to read). A byte
  that no read gave is no such result: it is a free value (log entry 24). Safe. -/
  | absentResult
  deriving DecidableEq, Repr

/-- The machine right after the construction `new(config)` (R22, R200, R201): all coefficients zero,
`CALV = 0`, the registers at the configured values, no request pending, no response outstanding, no
bus activity; and the environment with nothing scripted and nothing to do. -/
def State.new (cfg : Config) : State :=
  { cfg := cfg
    cal := Cal.zero
    oss := cfg.ossInit
    slp := cfg.slpInit
    calv := false
    request := none
    response := none
    answers := []
    draws := 0
    busLog := []
    host := HostState.idle }

/-- The machine right after reset, with the parameters at the defaults of R7. -/
def State.reset : State := State.new Config.standard

end Sys2Proof.Machine
end

