-- ==== Sys2Proof/Machine/Operands.lean ====
section
/-! DEFINITION. Where the operands of the operations come from: the bytes inside the operand field `A`
(spec/30_encoding.md R53), the calibration registers as 32-bit values (spec/10_state.md R10, R11), and
the quantities the oversampling level selects (spec/42_raw_sample_assembly.md R92). -/

namespace Sys2Proof.Machine

/-- `A[7:0]` (R53): the `lsb` of `ASM.UT`, the `xlsb` of `ASM.UP`. -/
def byte0 (a : Word) : Byte := a.extractLsb' 0 8

/-- `A[15:8]` (R53): the `msb` of `ASM.UT`, the `lsb` of `ASM.UP`. -/
def byte1 (a : Word) : Byte := a.extractLsb' 8 8

/-- `A[23:16]` (R53): the `msb` of `ASM.UP`. -/
def byte2 (a : Word) : Byte := a.extractLsb' 16 8

/-- The pattern a calibration register holds (R10). -/
def Cal.raw (c : Cal) : Coef → Half
  | .ac1 => c.ac1
  | .ac2 => c.ac2
  | .ac3 => c.ac3
  | .ac4 => c.ac4
  | .ac5 => c.ac5
  | .ac6 => c.ac6
  | .b1 => c.b1
  | .b2 => c.b2
  | .mb => c.mb
  | .mc => c.mc
  | .md => c.md

/-- The signedness of a calibration register: `AC4`, `AC5`, `AC6` are unsigned (R10, R83). -/
def Coef.signed : Coef → Bool
  | .ac4 => false
  | .ac5 => false
  | .ac6 => false
  | _ => true

/-- The index `i` of `CAL[i]` (R10). -/
def Coef.index : Coef → Nat
  | .ac1 => 0
  | .ac2 => 1
  | .ac3 => 2
  | .ac4 => 3
  | .ac5 => 4
  | .ac6 => 5
  | .b1 => 6
  | .b2 => 7
  | .mb => 8
  | .mc => 9
  | .md => 10

/-- The value of a calibration register in a formula, widened to 32 bits by its signedness (R11). -/
def Cal.value (c : Cal) (k : Coef) : Word :=
  if k.signed then sext16 (c.raw k) else zext16 (c.raw k)

/-- The calibration file whose registers are eleven patterns in index order (R10, R80). -/
def Cal.ofWords (ws : List Half) : Cal :=
  { ac1 := ws.getD 0 0
    ac2 := ws.getD 1 0
    ac3 := ws.getD 2 0
    ac4 := ws.getD 3 0
    ac5 := ws.getD 4 0
    ac6 := ws.getD 5 0
    b1 := ws.getD 6 0
    b2 := ws.getD 7 0
    mb := ws.getD 8 0
    mc := ws.getD 9 0
    md := ws.getD 10 0 }

/-- The right shift of the raw pressure assembly, `8 - OSS` (R91, R92). -/
def assemblyShift (oss : BitVec 2) : Nat := 8 - oss.toNat

/-- `scale = 50000 >>l OSS` (R92, R117). -/
def pressureScale (oss : BitVec 2) : Word := lsr 50000 oss.toNat

/-- The control byte of a pressure conversion, `0x34 + (oss << 6)` (R56, R92). -/
def controlPressure (oss : BitVec 2) : Byte := 0x34 + (oss.setWidth 8 <<< 6)

/-- The minimum wait after a pressure command, in microseconds (R92, R211). -/
def pressureWait (oss : BitVec 2) : Nat :=
  if oss = 0 then 4500 else if oss = 1 then 7500 else if oss = 2 then 13000 else 25500

end Sys2Proof.Machine
end

