-- ==== Sys2Proof/Machine/Ops.lean ====
section
/-! DEFINITION. The named operations over the state: the updates of single fields, answering `OK`,
answering with a non-OK outcome (the unit's whole exception mechanism, spec/60_exceptions.md R176),
the bus transactions (spec/20_memory.md R33, R34), and presenting a request (R184). There is no return
operation beside the raising of an outcome (R179: there is nothing to restore). -/

namespace Sys2Proof.Machine

/-- Put a response, or none, on the response port. -/
def State.setResponse (s : State) (r : Option Response) : State := { s with response := r }

/-- Put a request, or none, on the request port. -/
def State.setRequest (s : State) (r : Option Request) : State := { s with request := r }

/-- The indivisible commit of `CAL.LOAD` (R84): all eleven registers and `CALV` together. -/
def State.commitCal (s : State) (c : Cal) : State := { s with cal := c, calv := true }

/-- Write `OSS`. -/
def State.setOss (s : State) (l : BitVec 2) : State := { s with oss := l }

/-- Write `SLP`. -/
def State.setSlp (s : State) (p : Word) : State := { s with slp := p }

/-- Count `n` free values as drawn. -/
def State.draw (s : State) (n : Nat) : State := { s with draws := s.draws + n }

/-- What the environment answers next. -/
def State.setAnswers (s : State) (as : List BusAnswer) : State := { s with answers := as }

/-- Record a bus transaction or a wait, after those issued before it (R41). -/
def State.logEvent (s : State) (e : BusEvent) : State := { s with busLog := s.busLog ++ [e] }

/-- Replace the host agent's state. -/
def State.setHost (s : State) (h : HostState) : State := { s with host := h }

/-- The configuration of a unit constructed with `config`: `BUS_ADDR`, `OSS_INIT` and `SLP_INIT` are
taken from it (R151); how coefficients are fetched is the implementation's choice and not part of it
(R7, R81). -/
def State.constructedCfg (s : State) (cfg : Config) : Config :=
  { cfg with fetchMode := s.cfg.fetchMode }

/-- The construction `new(config)` of the unit (R151, R200, R201): its own state as after reset, its
ports empty; no bus activity, and the environment goes on as it was. -/
def State.construct (s : State) (cfg : Config) : State :=
  { s with
    cfg := s.constructedCfg cfg
    cal := Cal.zero
    oss := cfg.ossInit
    slp := cfg.slpInit
    calv := false
    request := none
    response := none }

/-- Answer `OK` with the results an operation defines (R51, R53). -/
def respondOk (q0 q1 : Option Word) (s : State) : State :=
  s.setResponse (some { st := .ok, q0 := q0, q1 := q1, berr := none })

/-- `raise st(info)` (R176): the operation ends with a non-OK status, no result field has a value, and
nothing else is written; `info` is the failure of a `BUS_ERROR`. -/
def raise (st : Status) (info : Option BusErr) (s : State) : State :=
  s.setResponse (some { st := st, q0 := none, q1 := none, berr := info })

/-- Answer `ILLEGAL_OP` (R55): no state read or written, no bus transaction. -/
def raiseIllegalOp (s : State) : State := raise .illegalOp none s

/-- The environment's answer to the next transaction (R40): the next one scripted, or a free value. -/
def nextAnswer (s : State) : BusAnswer :=
  match s.answers with
  | a :: _ => a
  | [] =>
    match Config.freeFailure s.draws with
    | some e => .err e
    | none => .ok []

/-- Whether an answer is a success. -/
def answerOk : BusAnswer → Bool
  | .ok _ => true
  | .err _ => false

/-- The state after one transaction has been issued and answered: recorded, its answer taken. -/
def transact (e : BusEvent) (s : State) : State :=
  ((s.setAnswers s.answers.tail).draw 1).logEvent e

/-- The `n` bytes a successful read returns (R33): the answer's, and free values where it scripts
fewer. -/
def answerBytes (bytes : List Byte) (k n : Nat) : List Byte :=
  (List.range n).map fun i => bytes.getD i (Config.freeByte k i)

/-- The outcome of a read transaction: all `n` bytes, or the failure (R33). -/
def readOutcome (n : Nat) (s : State) : Except BusErr (List Byte) :=
  match nextAnswer s with
  | .ok bytes => .ok (answerBytes bytes s.draws n)
  | .err e => .error e

/-- `MemRead(addr, n)` (R33, R35): one read transaction of `n` bytes from `addr` up, and the state
after it. -/
def memRead (addr : Byte) (n : Nat) (s : State) : Except BusErr (List Byte) × State :=
  (readOutcome n s, transact (.read s.cfg.busAddr addr n (answerOk (nextAnswer s))) s)

/-- The failure of a write transaction, if it fails (R34). -/
def writeOutcome (s : State) : Option BusErr :=
  match nextAnswer s with
  | .ok _ => none
  | .err e => some e

/-- `MemWrite(addr, n, data)` (R34): one write transaction, and the state after it. -/
def memWrite (addr : Byte) (data : List Byte) (s : State) : Option BusErr × State :=
  (writeOutcome s, transact (.write s.cfg.busAddr addr data (answerOk (nextAnswer s))) s)

/-- A free NaN pattern (R67): the `i`-th of those an operation may draw. -/
def freshNan (s : State) (i : Nat) : F32 := Config.freeNan (s.draws + i)

/-- Present a request to the unit (R18, R184): the response to the request before it is forgotten
(R19); a request presented while another is pending has no meaning (R47, U2). -/
def present (w : Request) (s : State) : Host.Outcome State Fault Refusal :=
  match s.request with
  | some _ => .refused .requestInFlight
  | none => .next ((s.setResponse none).setRequest (some w))

end Sys2Proof.Machine
end

