-- ==== Sys2Proof/Machine/Sequences.lean ====
section
/-! DEFINITION. The host agent (spec/47_host_sequences.md R150 to R162): the expansion of every
pseudo-operation into statements, what one statement does, and one step of the host. A sequence is a
straight line that ends at the first non-OK outcome (R150). -/

namespace Sys2Proof.Machine

/-- `ID` (R31). -/
def regId : Byte := 0xD0

/-- `CTRL_MEAS` (R31). -/
def regCtrlMeas : Byte := 0xF4

/-- `OUT_MSB`, the first of the three output registers (R31). -/
def regOutMsb : Byte := 0xF6

/-- `SOFT_RST` (R31). -/
def regSoftRst : Byte := 0xE0

/-- The identifier the right device answers (R57). -/
def deviceId : Byte := 0x55

/-- The byte that resets the sensor (R57). -/
def softResetByte : Byte := 0xB6

/-- The control byte of a temperature conversion (R56). -/
def controlTemperature : Byte := 0x2E

/-- The minimum wait after a temperature command, 5 ms, in microseconds (R154, R211). -/
def temperatureWait : Nat := 5000

/-- The bus writes the spec describes (R31, R56, R57, R159); for any other it gives no effect (U3). -/
def describedWrite (addr byte : Byte) : Bool :=
  (addr == regCtrlMeas &&
      (byte == controlTemperature || byte == controlPressure 0 || byte == controlPressure 1
        || byte == controlPressure 2 || byte == controlPressure 3))
    || (addr == regSoftRst && byte == softResetByte)

/-- `ACQ.T` (R154). -/
def bodyAcqT : List Stmt :=
  [.busWr regCtrlMeas controlTemperature, .wait temperatureWait, .busRd regOutMsb 2, .request .asmUt]

/-- `ACQ.P` (R155). -/
def bodyAcqP : List Stmt := [.busWrPressure, .waitPressure, .busRd regOutMsb 3, .request .asmUp]

/-- The statements of `READ_P` up to the pressure (R157): both acquisitions precede both
compensations. -/
def bodyPressure : List Stmt := bodyAcqT ++ bodyAcqP ++ [.request .compT, .request .compP]

/-- The expansion of a pseudo-operation (R151 to R160). -/
def expand : HostCall → List Stmt
  | .new _ => []
  | .testConn => [.busRd regId 1, .checkId]
  | .init => [.request (.word (encode (.calLoad 0 0))), .endOk .nothing]
  | .acqT => bodyAcqT ++ [.endOk .ut]
  | .acqP => bodyAcqP ++ [.endOk .up]
  | .readT => bodyAcqT ++ [.request .compT, .endOk .temperature]
  | .readP => bodyPressure ++ [.endOk .pressure]
  | .readAlt => bodyPressure ++ [.request .compAlt, .endOk .altitude]
  | .softReset => [.busWr regSoftRst softResetByte, .endOk .nothing]
  | .setOversampling l => [.request (.word (encode (.setOss l 0 0))), .endOk .nothing]
  | .setSeaLevelPressure pa => [.request (.word (encode (.setSlp pa 0))), .endOk .nothing]
  | .statements body => body ++ [.endOk .nothing]

/-- How many of the bytes the host holds a request takes: `msb, lsb` and `msb, lsb, xlsb` (R58). -/
def ReqSource.width : ReqSource → Nat
  | .word _ => 0
  | .asmUt => 2
  | .asmUp => 3
  | .compT => 0
  | .compP => 0
  | .compAlt => 0

/-- Byte `i` of those the host holds: byte `i` of the last read, and a free value where that read had
fewer. Which bytes `msb`, `lsb`, `xlsb` name in a program of its own the spec leaves open; the model
takes the first ones of the last read, whatever its width (DESIGN CHOICE, log entry 24). -/
def heldByte (s : State) (i : Nat) : Byte := s.host.vars.read.getD i (Config.freeHeldByte s.draws i)

/-- The state after the host has used the first `n` bytes it holds: a free value counts as drawn where
it held fewer. -/
def useHeld (n : Nat) (s : State) : State :=
  if s.host.vars.read.length < n then s.draw 1 else s

/-- The 72 bits of a request, its operands taken from the bytes the host holds and from its variables;
none where a result it needs has no value (R51, U11). Ignored fields are written as zero. -/
def requestWord (src : ReqSource) (held : Nat → Byte) (v : HostVars) : Option Request :=
  match src with
  | .word w => some w
  | .asmUt => some (encode (.asmUt (shl (zext8 (held 0)) 8 ||| zext8 (held 1)) 0))
  | .asmUp =>
    some (encode
      (.asmUp (shl (zext8 (held 0)) 16 ||| shl (zext8 (held 1)) 8 ||| zext8 (held 2)) 0))
  | .compT =>
    match v.ut with
    | some ut => some (encode (.compT ut 0))
    | none => none
  | .compP =>
    match v.up, v.b5 with
    | some up, some b5 => some (encode (.compP up b5))
    | _, _ => none
  | .compAlt =>
    match v.pressure with
    | some p => some (encode (.compAlt p 0))
    | none => none

/-- The result an `OK` response of an operation gives, beside the status (R58); with the temperature
comes `b5`. -/
def instrResult : Instr → ResultVar
  | .calLoad _ _ => .nothing
  | .asmUt _ _ => .ut
  | .asmUp _ _ => .up
  | .compT _ _ => .temperature
  | .compP _ _ => .pressure
  | .compAlt _ _ => .altitude
  | .setOss _ _ _ => .nothing
  | .setSlp _ _ => .nothing

/-- The result an `OK` response to a request gives: that of the operation the request is (R55, R58). -/
def requestResult (w : Request) : ResultVar :=
  match decode w with
  | .instr i => instrResult i
  | .illegalOp _ => .nothing

/-- The result an `OK` response to a request of the host gives, whether its operands are literal or the
host's variables (R58). -/
def ReqSource.result : ReqSource → ResultVar
  | .word w => requestResult w
  | .asmUt => .ut
  | .asmUp => .up
  | .compT => .temperature
  | .compP => .pressure
  | .compAlt => .altitude

/-- A result bound to its name: `Q0` of the response, and `Q1` to `b5` (R53, R58). A name bound before
takes the new value (DESIGN CHOICE, log entry 16). -/
def bindResult (res : ResultVar) (r : Response) (v : HostVars) : HostVars :=
  match res with
  | .nothing => v
  | .ut => { v with ut := r.q0 }
  | .up => { v with up := r.q0 }
  | .temperature => { v with temperature := r.q0, b5 := r.q1 }
  | .pressure => { v with pressure := r.q0 }
  | .altitude => { v with altitude := r.q0 }

/-- The host's variables after it has taken an `OK` response (R58, R154 to R158). -/
def storeResults (src : ReqSource) (r : Response) (v : HostVars) : HostVars :=
  bindResult src.result r { v with answer := some r }

/-- The result a sequence ends `OK` with: none for a result that was never computed, and a value (which
may be no word at all) otherwise. -/
def resultOf (r : ResultVar) (v : HostVars) : Option (Option Word) :=
  match r with
  | .nothing => some none
  | .ut => v.ut.map some
  | .up => v.up.map some
  | .temperature => v.temperature.map some
  | .pressure => v.pressure.map some
  | .altitude => v.altitude.map some

/-- The sequence in progress ends at once with an outcome, and no later statement is executed
(R150). -/
def endSequence (e : HostEnd) (s : State) : State :=
  s.setHost { s.host with todo := [], awaiting := none, last := some e }

/-- The host's variables replaced. -/
def setVars (v : HostVars) (s : State) : State := s.setHost { s.host with vars := v }

/-- The host takes the response it waited for: it keeps the results of an `OK` one, and any other ends
the sequence (R150, R180). -/
def takeResponse (src : ReqSource) (r : Response) (s : State) : State :=
  if r.st = .ok then
    (s.setResponse none).setHost
      { s.host with awaiting := none, vars := storeResults src r s.host.vars }
  else endSequence (.err r.st r.berr) (s.setResponse none)

/-- What follows a bus write: a failure ends the sequence (R150). -/
def afterWrite : Option BusErr × State → State
  | (none, s) => s
  | (some e, s) => endSequence (.err .busError (some e)) s

/-- What follows a bus read: the host keeps the bytes, a failure ends the sequence (R150). -/
def afterRead : Except BusErr (List Byte) × State → State
  | (.ok bytes, s) => setVars { s.host.vars with read := bytes } s
  | (.error e, s) => endSequence (.err .busError (some e)) s

/-- How `TEST_CONN` ends for a byte read from `ID` (R152). -/
def idOutcome (id : Byte) : HostEnd :=
  if id = deviceId then .ok none else .err .invalidDeviceId none

/-- The host presents a request and waits for its response (R41, R58). -/
def issue (src : ReqSource) (w : Request) (s : State) : Host.Outcome State Fault Refusal :=
  present w (s.setHost { s.host with awaiting := some src })

/-- What one statement does (R58); it has been taken off the list already. -/
def runStmt (st : Stmt) (s : State) : Host.Outcome State Fault Refusal :=
  match st with
  | .busWr addr byte =>
    if describedWrite addr byte then .next (afterWrite (memWrite addr [byte] s))
    else .refused .undescribedWrite
  | .busWrPressure => .next (afterWrite (memWrite regCtrlMeas [controlPressure s.oss] s))
  | .busRd addr n => if n = 0 then .refused .emptyRead else .next (afterRead (memRead addr n s))
  | .wait us => .next (s.logEvent (.wait us))
  | .waitPressure => .next (s.logEvent (.wait (pressureWait s.oss)))
  | .checkId => .next (endSequence (idOutcome (heldByte s 0)) (useHeld 1 s))
  | .request src =>
    match requestWord src (heldByte s) s.host.vars with
    | some w => issue src w (useHeld src.width s)
    | none => .refused .absentResult
  | .endOk r =>
    match resultOf r s.host.vars with
    | some v => .next (endSequence (.ok v) s)
    | none => .refused .absentResult

/-- The host begins a sequence (R150): its statements to execute, no variable with a value. `NEW` is
the construction itself and issues no statement (R151). -/
def beginCall (c : HostCall) (s : State) : State :=
  match c with
  | .new cfg =>
    endSequence (.ok none) ((s.construct cfg).setHost { s.host with vars := HostVars.fresh })
  | .testConn | .init | .acqT | .acqP | .readT | .readP | .readAlt | .softReset
  | .setOversampling _ | .setSeaLevelPressure _ | .statements _ =>
    s.setHost { s.host with todo := expand c, vars := HostVars.fresh }

/-- One step of the host, taken when no request is pending (R41, R150): it takes the response it waits
for, or executes its next statement, or begins its next sequence, or does nothing. -/
def hostStep (s : State) : Host.Outcome State Fault Refusal :=
  match s.host.awaiting with
  | some src =>
    match s.response with
    | some r => .next (takeResponse src r s)
    | none => .fault .hostBlocked
  | none =>
    match s.host.todo with
    | st :: rest => runStmt st (s.setHost { s.host with todo := rest })
    | [] =>
      match s.host.calls with
      | c :: cs => .next (beginCall c (s.setHost { s.host with calls := cs }))
      | [] => .next s

/-- The source's error taxonomy (R161, R170): what the facade reports for an outcome. -/
inductive DriverError where
  /-- `DriverError` wrapping a `BusError` -/
  | bus (e : BusErr)
  /-- `InvalidDeviceId` -/
  | invalidDeviceId
  /-- `InvalidCalibrationData` -/
  | invalidCalibrationData
  deriving DecidableEq, Repr

/-- The source's name for how a sequence ended; the outcomes `TEMP_DIV_ZERO`, `REJECTED` and
`ILLEGAL_OP` have no counterpart in the source, and `OK` is no error (R161). -/
def driverError : HostEnd → Option DriverError
  | .ok _ => none
  | .err .busError (some e) => some (.bus e)
  | .err .busError none => none
  | .err .invalidDeviceId _ => some .invalidDeviceId
  | .err .invalidCalibration _ => some .invalidCalibrationData
  | .err .tempDivZero _ => none
  | .err .rejected _ => none
  | .err .illegalOp _ => none
  | .err .ok _ => none

end Sys2Proof.Machine
end

