-- ==== Sys2Proof/Machine/Float.lean ====
section
/-! DEFINITION. The binary32 arithmetic of spec/40_arithmetic_laws.md (R67 to R69): one format, one
rounding mode (to nearest, ties to even), no flags. Every finite magnitude is a whole number of UNITS
of 2^-149, the smallest subnormal, so each operation is computed exactly on natural numbers and rounded
once. An operation whose result is NaN answers the pattern it is given for it (R67: the sign and
payload are not specified; the caller supplies a free pattern). -/

namespace Sys2Proof.Machine

/-- The exponent field, bits 30:23 (R67). -/
def F32.expField (x : F32) : Nat := (x.extractLsb' 23 8).toNat

/-- The fraction field, bits 22:0 (R67). -/
def F32.fraction (x : F32) : Nat := (x.extractLsb' 0 23).toNat

/-- The sign bit, bit 31 (R67): true for a negative sign. -/
def F32.sign (x : F32) : Bool := x.msb

/-- NaN: exponent all ones, fraction not zero (R67). -/
def F32.isNan (x : F32) : Bool := F32.expField x == 255 && F32.fraction x != 0

/-- An infinity: exponent all ones, fraction zero (R67). -/
def F32.isInf (x : F32) : Bool := F32.expField x == 255 && F32.fraction x == 0

/-- Neither NaN nor an infinity. -/
def F32.isFinite (x : F32) : Bool := F32.expField x != 255

/-- A zero of either sign. -/
def F32.isZero (x : F32) : Bool := F32.expField x == 0 && F32.fraction x == 0

/-- The magnitude of a finite value in units of 2^-149: a normal value has the leading bit the format
leaves out, a subnormal (exponent field 0) has none (R67, bias 127). -/
def F32.units (x : F32) : Nat :=
  if F32.expField x = 0 then F32.fraction x
  else (2 ^ 23 + F32.fraction x) * 2 ^ (F32.expField x - 1)

/-- The signed magnitude of a finite value in units of 2^-149. -/
def F32.signedUnits (x : F32) : Int :=
  if F32.sign x then -(F32.units x : Int) else (F32.units x : Int)

/-- The real number a finite pattern stands for. -/
def F32.value (x : F32) : Rat := (F32.signedUnits x : Rat) / 2 ^ 149

/-- The pattern with the given sign bit and the given 31 low bits. -/
def F32.pack (neg : Bool) (low : Nat) : F32 :=
  BitVec.ofNat 32 (if neg then 2 ^ 31 + low else low)

/-- A zero with a sign. -/
def F32.zero (neg : Bool) : F32 := F32.pack neg 0

/-- The 31 low bits of an infinity. -/
def F32.infLow : Nat := 255 * 2 ^ 23

/-- An infinity with a sign. -/
def F32.inf (neg : Bool) : F32 := F32.pack neg F32.infLow

/-- A NaN whose sign and payload are those of `bits`; every NaN pattern is one of these (R67). -/
def F32.nanOf (bits : Word) : F32 :=
  if (bits ||| 0x7F800000).extractLsb' 0 23 = 0 then bits ||| 0x7F800001 else bits ||| 0x7F800000

/-- `n / d` rounded to the nearest natural number, ties to even. -/
def divNearestEven (n d : Nat) : Nat :=
  if 2 * (n % d) > d ∨ (2 * (n % d) = d ∧ n / d % 2 = 1) then n / d + 1 else n / d

/-- How many bits lie below the 24-bit significand of a magnitude of `q` whole units: 0 for the
subnormals and the lowest normals. -/
def F32.scale (q : Nat) : Nat := q.log2 - 23

/-- The 31 low bits of the binary32 value nearest to `n / d`, `d ≠ 0`, ties to even (R67). The
significand rounded at the scale `s` is added to the exponent field `s`, so that a carry out of the
significand moves into the exponent; what reaches the infinity's pattern is the infinity. -/
def F32.roundLow (n d : Nat) : Nat :=
  let s := F32.scale (n * 2 ^ 149 / d)
  min (s * 2 ^ 23 + divNearestEven (n * 2 ^ 149) (d * 2 ^ s)) F32.infLow

/-- The binary32 value nearest to `± n / d`, `d ≠ 0`, ties to even (R67). -/
def F32.round (neg : Bool) (n d : Nat) : F32 := F32.pack neg (F32.roundLow n d)

/-- `v as f32` of an `i32` `v` (R68). -/
def F32.ofI32 (v : Word) : F32 := F32.round v.msb v.toInt.natAbs 1

/-- Binary32 division (R67): division by zero gives an infinity, or NaN for 0/0. -/
def F32.div (nan : F32) (a b : F32) : F32 :=
  let neg := F32.sign a ^^ F32.sign b
  if F32.isNan a || F32.isNan b then nan
  else if F32.isInf a then if F32.isInf b then nan else F32.inf neg
  else if F32.isInf b then F32.zero neg
  else if F32.isZero b then if F32.isZero a then nan else F32.inf neg
  else F32.round neg (F32.units a) (F32.units b)

/-- Binary32 multiplication (R67). -/
def F32.mul (nan : F32) (a b : F32) : F32 :=
  let neg := F32.sign a ^^ F32.sign b
  if F32.isNan a || F32.isNan b then nan
  else if F32.isInf a || F32.isInf b then
    if F32.isZero a || F32.isZero b then nan else F32.inf neg
  else F32.round neg (F32.units a * F32.units b) (2 ^ 149 * 2 ^ 149)

/-- Binary32 subtraction (R67): an exact zero is `+0`, but for `-0 - +0`, which is `-0`. -/
def F32.sub (nan : F32) (a b : F32) : F32 :=
  if F32.isNan a || F32.isNan b then nan
  else if F32.isInf a then
    if F32.isInf b && (F32.sign a == F32.sign b) then nan else a
  else if F32.isInf b then F32.inf (!F32.sign b)
  else
    let d := F32.signedUnits a - F32.signedUnits b
    if d = 0 then F32.zero (F32.sign a && !F32.sign b)
    else F32.round (d < 0) d.natAbs (2 ^ 149)

/-- The constant `10.0` (R69). -/
def F32.ten : F32 := 0x41200000

/-- The constant `44330.0` (R69). -/
def F32.c44330 : F32 := 0x472D2A00

/-- The constant `1.0` (R69). -/
def F32.one : F32 := 0x3F800000

/-- The constant `5.255` (R69). -/
def F32.c5255 : F32 := 0x40A828F6

end Sys2Proof.Machine
end

