-- ==== Sys2Proof/Machine/Altitude.lean ====
section
/-! DEFINITION. Altitude, `COMP.ALT` (spec/45_altitude.md R130 to R136). -/

namespace Sys2Proof.Machine

/-- The exponent `E = 1.0 / 5.255`, evaluated once in binary32 (R132). -/
def altExponent : F32 := F32.div (F32.nanOf 0) F32.one F32.c5255

/-- The ratio of the source's one test point, 93810 over 101325 (R131, R133). -/
def altTestRatio : F32 := 0x3F6D035F

/-- `dlt = 1.0 - pw`, `altitude = 44330.0 * dlt` (R134), with the patterns to answer where either
operation has a NaN for its result. -/
def altFromPower (nanSub nanMul : F32) (pw : F32) : F32 :=
  F32.mul nanMul F32.c44330 (F32.sub nanSub F32.one pw)

/-- Within 0.5 of 645 (R133): finite, positive, and from 644.5 to 645.5 in units of 2^-149. -/
def near645 (x : F32) : Bool :=
  F32.isFinite x && !F32.sign x
    && 1289 * 2 ^ 148 ≤ F32.units x && F32.units x ≤ 1291 * 2 ^ 148

/-- A finite ratio below zero (R133: negative pressure over positive reference). -/
def altNegativeRatio (x : F32) : Bool := F32.isFinite x && F32.sign x && !F32.isZero x

/-- What R133 requires of the value `pw` of the power of `x` to the exponent `y`: at the test point the
altitude lies within 0.5 of 645, and for a ratio below zero it is not finite. Whether an altitude is
finite does not depend on the patterns its NaN results have. -/
def powerLawful (x y pw : F32) : Bool :=
  if y = altExponent then
    if x = altTestRatio then near645 (altFromPower (F32.nanOf 0) (F32.nanOf 0) pw)
    else if altNegativeRatio x then
      !F32.isFinite (altFromPower (F32.nanOf 0) (F32.nanOf 0) pw)
    else true
  else true

/-- A value that meets R133 wherever it asks for anything. -/
def powerFallback (x : F32) : F32 :=
  if x = altTestRatio then 0x3F7C45F6 else F32.nanOf 0

/-- `POW32` (R7, R133): the free function of Config, kept wherever it meets the named property of R133
and moved to a value that meets it elsewhere. Every function that meets R133 is `pow32` for some free
function (itself), and no other function is. -/
def pow32 (x y : F32) : F32 :=
  if powerLawful x y (Config.freePow x y) then Config.freePow x y else powerFallback x

/-- `ratio = pressure as f32 / SLP as f32` (R131). -/
def altRatio (nan : F32) (p slp : Word) : F32 := F32.div nan (F32.ofI32 p) (F32.ofI32 slp)

/-- The altitude (R131 to R134), with the patterns of the NaN results its three operations may have. -/
def altitude (nanDiv nanSub nanMul : F32) (p slp : Word) : F32 :=
  altFromPower nanSub nanMul (pow32 (altRatio nanDiv p slp) altExponent)

/-- The `i`-th NaN an altitude may draw from the state's free values (R67). -/
def altNan (s : State) (i : Nat) : F32 := F32.nanOf (freshNan s i)

/-- The altitude in a state. For a pressure of zero the spec states no result: it is any `f32`, a free
value, whatever the reference (R135, C5, U6; DESIGN CHOICE, log entry 10). -/
def altitudeIn (p : Word) (s : State) : F32 :=
  if p = 0 then Config.freeAltitude s.draws
  else altitude (altNan s 0) (altNan s 1) (altNan s 2) p s.slp

/-- `COMP.ALT` (R130): the operation cannot fail. `B` is ignored. Three free values are drawn. -/
def execCompAlt (a _b : Word) (s : State) : Host.Outcome State Fault Refusal :=
  .next (respondOk (some (altitudeIn a s)) none (s.draw 3))

end Sys2Proof.Machine
end

