-- ==== Sys2Proof/Machine/Assembly.lean ====
section
/-! DEFINITION. The raw sample assemblers, `ASM.UT` and `ASM.UP`
(spec/42_raw_sample_assembly.md R90 to R94). -/

namespace Sys2Proof.Machine

/-- `(zext_8(msb) << 8) | zext_8(lsb)` (R90). -/
def rawTemperature (msb lsb : Byte) : Word := shl (zext8 msb) 8 ||| zext8 lsb

/-- The three bytes as a big-endian integer with a leading zero byte (R91). -/
def rawPressureBytes (msb lsb xlsb : Byte) : Word :=
  shl (zext8 msb) 16 ||| shl (zext8 lsb) 8 ||| zext8 xlsb

/-- `v >>a (8 - OSS)` (R91). -/
def rawPressure (oss : BitVec 2) (msb lsb xlsb : Byte) : Word :=
  asr (rawPressureBytes msb lsb xlsb) (assemblyShift oss)

/-- `ASM.UT` (R90). `A[31:16]` and `B` are ignored. -/
def execAsmUt (a _b : Word) (s : State) : Host.Outcome State Fault Refusal :=
  .next (respondOk (some (rawTemperature (byte1 a) (byte0 a))) none s)

/-- `ASM.UP` (R91). `A[31:24]` and `B` are ignored; the level is the register `OSS`. -/
def execAsmUp (a _b : Word) (s : State) : Host.Outcome State Fault Refusal :=
  .next (respondOk (some (rawPressure s.oss (byte2 a) (byte1 a) (byte0 a))) none s)

end Sys2Proof.Machine
end

