-- ==== Sys2Proof/Machine/Calibration.lean ====
section
/-! DEFINITION. The calibration decoder, `CAL.LOAD` (spec/41_calibration_decoder.md R80 to R88). -/

namespace Sys2Proof.Machine

/-- The address of the high byte of coefficient `i`, `0xAA + 2*i` (R32). -/
def calAddr (i : Nat) : Byte := 0xAA + BitVec.ofNat 8 (2 * i)

/-- The combination `(high << 8) | low` (R36, R82). -/
def combine (high low : Byte) : Half := high ++ low

/-- The combination of the bytes of one 2-byte read (R35, R81). -/
def combinePair (bytes : List Byte) : Half := combine (bytes.getD 0 0) (bytes.getD 1 0)

/-- `fetch_pair(i)` in `bytewise` mode (R81): the high byte, then the low byte. -/
def fetchBytewise (i : Nat) (s : State) : Except BusErr Half × State :=
  match memRead (calAddr i) 1 s with
  | (.error e, s1) => (.error e, s1)
  | (.ok h, s1) =>
    match memRead (calAddr i + 1) 1 s1 with
    | (.error e, s2) => (.error e, s2)
    | (.ok l, s2) => (.ok (combine (h.getD 0 0) (l.getD 0 0)), s2)

/-- `fetch_pair(i)` in `pairwise` mode (R81): both bytes in one transaction. -/
def fetchPairwise (i : Nat) (s : State) : Except BusErr Half × State :=
  match memRead (calAddr i) 2 s with
  | (.error e, s1) => (.error e, s1)
  | (.ok hl, s1) => (.ok (combinePair hl), s1)

/-- `fetch_pair(i)` in the mode of the instance (R81). -/
def fetchPair (i : Nat) (s : State) : Except BusErr Half × State :=
  match s.cfg.fetchMode with
  | .bytewise => fetchBytewise i s
  | .pairwise => fetchPairwise i s

/-- The fetches of the listed coefficients in order; the first failure ends them (R80, R85). -/
def fetchAll : List Nat → State → Except BusErr (List Half) × State
  | [], s => (.ok [], s)
  | i :: is, s =>
    match fetchPair i s with
    | (.error e, s1) => (.error e, s1)
    | (.ok w, s1) =>
      match fetchAll is s1 with
      | (.error e, s2) => (.error e, s2)
      | (.ok ws, s2) => (.ok (w :: ws), s2)

/-- The eleven coefficients in ascending order (R80). -/
def calIndices : List Nat := [0, 1, 2, 3, 4, 5, 6, 7, 8, 9, 10]

/-- What follows the fetches: the commit, or the failure with nothing written (R80, R84, R85). -/
def calLoadEnd : Except BusErr (List Half) × State → State
  | (.error e, s) => raise .busError (some e) s
  | (.ok ws, s) => respondOk none none (s.commitCal (Cal.ofWords ws))

/-- `CAL.LOAD` (R80). `A` and `B` are ignored. -/
def execCalLoad (_a _b : Word) (s : State) : Host.Outcome State Fault Refusal :=
  .next (calLoadEnd (fetchAll calIndices s))

end Sys2Proof.Machine
end

