-- ==== Sys2Proof/Machine/Configuration.lean ====
section
/-! DEFINITION. The configuration operations, `SET.OSS` and `SET.SLP`
(spec/46_configuration.md R140 to R143). -/

namespace Sys2Proof.Machine

/-- `SET.OSS l` (R140). `A` and `B` are ignored. -/
def execSetOss (l : BitVec 2) (_a _b : Word) (s : State) : Host.Outcome State Fault Refusal :=
  .next (respondOk none none (s.setOss l))

/-- The state after `SET.SLP` (R141): a non-positive value is rejected and `SLP` kept. -/
def setSlpNext (pa : Word) (s : State) : State :=
  if sle pa 0 then raise .rejected none s else respondOk none none (s.setSlp pa)

/-- `SET.SLP` (R141). `B` is ignored. -/
def execSetSlp (a _b : Word) (s : State) : Host.Outcome State Fault Refusal :=
  .next (setSlpNext a s)

end Sys2Proof.Machine
end

