-- ==== Sys2Proof/Machine/Flags.lean ====
section
/-! DEFINITION. The unit has no flag register and no sticky error state (spec/10_state.md R19); its
only condition information is the status of a response. This file holds the status codes
(spec/60_exceptions.md R170) and the conditions that end an operation: the two checked points
(spec/40_arithmetic_laws.md R70). -/

namespace Sys2Proof.Machine

/-- The 4-bit status `ST` (R170). -/
def Status.code : Status → BitVec 4
  | .ok => 0x0
  | .busError => 0x1
  | .invalidDeviceId => 0x2
  | .invalidCalibration => 0x3
  | .tempDivZero => 0x4
  | .rejected => 0x5
  | .illegalOp => 0xF

/-- `checked_sub_u32` (R70): no result when `a < b` as unsigned values. -/
def checkedSubU32 (a b : Word) : Option Word :=
  if a.toNat < b.toNat then none else some (a - b)

/-- `checked_mul_s32` (R70): no result when the product of the signed values leaves the `i32` range. -/
def checkedMulS32 (a b : Word) : Option Word :=
  if a.toInt * b.toInt < -2147483648 ∨ 2147483647 < a.toInt * b.toInt then none
  else some (BitVec.ofInt 32 (a.toInt * b.toInt))

end Sys2Proof.Machine
end

