-- ==== Sys2Proof/Machine/Pressure.lean ====
section
/-! DEFINITION. Pressure compensation, `COMP.P` (spec/44_pressure.md R110 to R129). The names are those
of the spec's rules, with `press` before them. -/

namespace Sys2Proof.Machine

/-- `b6 = b5 - 4000` (R111). -/
def pressB6 (b5 : Word) : Word := b5 - 4000

/-- `sq = (b6 * b6) >>a 12` (R112). -/
def pressSq (b5 : Word) : Word := asr (pressB6 b5 * pressB6 b5) 12

/-- `x1 = (B2 * sq) >>a 11` (R113). -/
def pressX1 (c : Cal) (b5 : Word) : Word := asr (c.value .b2 * pressSq b5) 11

/-- `x2 = (AC2 * b6) >>a 11` (R113). -/
def pressX2 (c : Cal) (b5 : Word) : Word := asr (c.value .ac2 * pressB6 b5) 11

/-- `x3 = x1 + x2` (R113). -/
def pressX3 (c : Cal) (b5 : Word) : Word := pressX1 c b5 + pressX2 c b5

/-- `b3 = (((AC1*4 + x3) <<w oss) + 2) /t 4` (R114). -/
def pressB3 (c : Cal) (oss : BitVec 2) (b5 : Word) : Word :=
  tdiv (shl (c.value .ac1 * 4 + pressX3 c b5) oss.toNat + 2) 4

/-- `x1b = (AC3 * b6) >>a 13` (R115). -/
def pressX1b (c : Cal) (b5 : Word) : Word := asr (c.value .ac3 * pressB6 b5) 13

/-- `x2b = (B1 * sq) >>a 16` (R115). -/
def pressX2b (c : Cal) (b5 : Word) : Word := asr (c.value .b1 * pressSq b5) 16

/-- `x3b = ((x1b + x2b) + 2) >>a 2` (R115). -/
def pressX3b (c : Cal) (b5 : Word) : Word := asr (pressX1b c b5 + pressX2b c b5 + 2) 2

/-- `m4 = as_u32(x3b) + 0x8000` (R116). -/
def pressM4 (c : Cal) (b5 : Word) : Word := pressX3b c b5 + 0x8000

/-- `b4 = (AC4 * m4) >>l 15` (R116). -/
def pressB4 (c : Cal) (b5 : Word) : Word := lsr (c.value .ac4 * pressM4 c b5) 15

/-- `b7 = dq * scale` (R119). -/
def pressB7 (oss : BitVec 2) (dq : Word) : Word := dq * pressureScale oss

/-- The quotient `pu` and its reading `p` as an `i32` (R121, R122): two branches, the boundary value
`0x8000_0000` in the second. -/
def pressP (b7 b4 : Word) : Word :=
  if b7.toNat < 0x80000000 then doubledQuotient64 b7 b4 else udiv b7 b4 * 2

/-- `y1 = (y1sq * 3038) >>a 16` (R124). -/
def pressY1 (y1sq : Word) : Word := asr (y1sq * 3038) 16

/-- `y2 = (-7357 * p) >>a 16` (R125). -/
def pressY2 (p : Word) : Word := asr (wrap32 (-7357) * p) 16

/-- `pressure = p + ((y1 + y2 + 3791) >>a 4)` (R126). -/
def pressTail (p y1sq : Word) : Word := p + asr (pressY1 y1sq + pressY2 p + 3791) 4

/-- From the quotient on (R123 to R126): no result when the checked square overflows. -/
def pressFromP (p : Word) : Option Word :=
  match checkedMulS32 (asr p 8) (asr p 8) with
  | none => none
  | some y1sq => some (pressTail p y1sq)

/-- From the checked difference on (R119 to R126): no result when `b4 = 0`. -/
def pressFromDq (c : Cal) (oss : BitVec 2) (b5 dq : Word) : Option Word :=
  if pressB4 c b5 = 0 then none else pressFromP (pressP (pressB7 oss dq) (pressB4 c b5))

/-- The compensated pressure, or none where one of the three checks fails, in their order
(R110, R118, R120, R123, R127). -/
def pressure (c : Cal) (oss : BitVec 2) (up b5 : Word) : Option Word :=
  match checkedSubU32 up (pressB3 c oss b5) with
  | none => none
  | some dq => pressFromDq c oss b5 dq

/-- The state after `COMP.P`: the pressure, or `INVALID_CALIBRATION` (R126, R127). -/
def compPNext (up b5 : Word) (s : State) : State :=
  match pressure s.cal s.oss up b5 with
  | some p => respondOk (some p) none s
  | none => raise .invalidCalibration none s

/-- `COMP.P` (R110): `A = up`, `B = b5`; the level is the register `OSS`. -/
def execCompP (a b : Word) (s : State) : Host.Outcome State Fault Refusal :=
  .next (compPNext a b s)

end Sys2Proof.Machine
end

