-- ==== Sys2Proof/Machine/Temperature.lean ====
section
/-! DEFINITION. Temperature compensation, `COMP.T` (spec/43_temperature.md R100 to R108). -/

namespace Sys2Proof.Machine

/-- `x1 = ((ut - AC6) * AC5) >>a 15` (R101). -/
def tempX1 (c : Cal) (ut : Word) : Word := asr ((ut - c.value .ac6) * c.value .ac5) 15

/-- The divisor `x1 + MD` (R102). -/
def tempDen (c : Cal) (ut : Word) : Word := tempX1 c ut + c.value .md

/-- `x2 = (MC << 11) /t (x1 + MD)` (R103). -/
def tempX2 (c : Cal) (ut : Word) : Word := tdiv (shl (c.value .mc) 11) (tempDen c ut)

/-- `b5 = x1 + x2` (R104). -/
def tempB5 (c : Cal) (ut : Word) : Word := tempX1 c ut + tempX2 c ut

/-- `t10 = (b5 + 8) >>a 4`, the temperature in tenths of a degree (R105). -/
def tempTenths (b5 : Word) : Word := asr (b5 + 8) 4

/-- The temperature in degrees Celsius, `t10 as f32 / 10.0` (R105). The quotient of a finite value by
10.0 is never NaN, so the pattern given for NaN is never the answer. -/
def tempCelsius (b5 : Word) : F32 := F32.div (F32.nanOf 0) (F32.ofI32 (tempTenths b5)) F32.ten

/-- The state after `COMP.T` (R100 to R106). -/
def compTNext (ut : Word) (s : State) : State :=
  if tempDen s.cal ut = 0 then raise .tempDivZero none s
  else respondOk (some (tempCelsius (tempB5 s.cal ut))) (some (tempB5 s.cal ut)) s

/-- `COMP.T` (R100). `B` is ignored. -/
def execCompT (a _b : Word) (s : State) : Host.Outcome State Fault Refusal :=
  .next (compTNext a s)

end Sys2Proof.Machine
end

