-- ==== Sys2Proof/Machine/Dispatch.lean ====
section
/-! DEFINITION. One arm for each operation of spec/opcode_table.json. -/

namespace Sys2Proof.Machine

/-- What the unit does with one request it has accepted (R52). -/
def exec (i : Instr) (s : State) : Host.Outcome State Fault Refusal :=
  match i with
  | .calLoad a b => Sys2Proof.Machine.execCalLoad a b s
  | .asmUt a b => Sys2Proof.Machine.execAsmUt a b s
  | .asmUp a b => Sys2Proof.Machine.execAsmUp a b s
  | .compT a b => Sys2Proof.Machine.execCompT a b s
  | .compP a b => Sys2Proof.Machine.execCompP a b s
  | .compAlt a b => Sys2Proof.Machine.execCompAlt a b s
  | .setOss l a b => Sys2Proof.Machine.execSetOss l a b s
  | .setSlp a b => Sys2Proof.Machine.execSetSlp a b s

end Sys2Proof.Machine
end

