-- ==== Sys2Proof/Machine/Unit.lean ====
section
/-! DEFINITION. Fetching: the unit accepts the request that is pending, decodes it and executes it
(spec/30_encoding.md R50, R55; spec/10_state.md R18, R20). -/

namespace Sys2Proof.Machine

/-- The unit accepts a request: the port is free again (R18), then an illegal opcode answers
`ILLEGAL_OP` (R55, R177: decode comes first) and any other request is the operation it decodes to. -/
def acceptRequest (w : Request) (s : State) : Host.Outcome State Fault Refusal :=
  match decode w with
  | .instr i => exec i (s.setRequest none)
  | .illegalOp _ => .next (raiseIllegalOp (s.setRequest none))

/-- The request port loaded with the request whose bits are the `nbits` low bits of `w` (R50). -/
def loadRequest (s : State) (nbits w : Nat) : State :=
  s.setRequest (some (BitVec.ofNat 72 (w % 2 ^ nbits)))

end Sys2Proof.Machine
end

