-- ==== Sys2Proof/Machine/Step.lean ====
section
/-! DEFINITION. One step of the machine. A pending request is executed by the unit in one step; while
none is pending the host moves (spec/20_memory.md R41: one agent at a time, each action complete before
the next begins). The unit has no program counter and fetches nothing from memory (R20): a program
reaches it as requests presented from outside (DESIGN CHOICE, log entry 2). -/

namespace Sys2Proof.Machine

/-- One step. -/
def step (s : State) : Host.Outcome State Fault Refusal :=
  match s.request with
  | some w => acceptRequest w s
  | none => hostStep s

/-- The state in which the unit is presented with the request whose bits are `w`: the very next step
executes it. -/
def State.withFetchWord (s : State) (nbits w : Nat) : State := loadRequest s nbits w

end Sys2Proof.Machine
end

