-- ==== Sys2Proof/Safety.lean ====
section
/-! DEFINITION. What the claims call a sound state of the unit, an accepted host program, and a record
of bus events that respects the hazards a host must respect (spec/70_reset_and_hazards.md R210 to
R215). -/

namespace Sys2Proof.Machine

/-- A response as the unit gives it (R51, R170, R172): results only when `ST = OK`, `BERR` present
exactly when `ST = BUS_ERROR`, and never `INVALID_DEVICE_ID`. -/
def Response.sound (r : Response) : Prop :=
  (r.st ≠ .ok → r.q0 = none ∧ r.q1 = none) ∧ (r.berr.isSome ↔ r.st = .busError)
    ∧ r.st ≠ .invalidDeviceId

/-- A sound state of the unit: the response, if one is there, is sound, and the coefficients are those
of reset as long as `CALV` is 0 (R16, R22, R84). -/
def UnitSound (s : State) : Prop :=
  (∀ r, s.response = some r → r.sound) ∧ (s.calv = false → s.cal = Cal.zero)

/-- The host never waits in vain: while it waits, its request or the response to it is there (R41). -/
def HostServed (s : State) : Prop :=
  s.host.awaiting ≠ none → s.request ≠ none ∨ s.response ≠ none

/-! ## Accepted host programs

A host program is accepted when, statement by statement, every result it uses has been computed before
and every bus write is one the spec describes. The check looks at the statements only; it knows of each
variable whether it has a value (DESIGN CHOICE, log entry 14). -/

/-- What is known of the host's variables. -/
structure Known where
  ut : Bool
  up : Bool
  temperature : Bool
  b5 : Bool
  pressure : Bool
  altitude : Bool
  deriving DecidableEq, Repr

/-- What is known at the start of a sequence. -/
def Known.fresh : Known := ⟨false, false, false, false, false, false⟩

/-- What is known of given variables. -/
def HostVars.known (v : HostVars) : Known :=
  { ut := v.ut.isSome
    up := v.up.isSome
    temperature := v.temperature.isSome
    b5 := v.b5.isSome
    pressure := v.pressure.isSome
    altitude := v.altitude.isSome }

/-- Whether a result is known. -/
def Known.has (k : Known) : ResultVar → Bool
  | .nothing => true
  | .ut => k.ut
  | .up => k.up
  | .temperature => k.temperature
  | .pressure => k.pressure
  | .altitude => k.altitude

/-- What is known once a result has been bound. -/
def Known.learn (k : Known) : ResultVar → Known
  | .nothing => k
  | .ut => { k with ut := true }
  | .up => { k with up := true }
  | .temperature => { k with temperature := true, b5 := true }
  | .pressure => { k with pressure := true }
  | .altitude => { k with altitude := true }

/-- Whether the operands a request takes from the host's variables are known. -/
def Known.operands (k : Known) : ReqSource → Bool
  | .word _ => true
  | .asmUt => true
  | .asmUp => true
  | .compT => k.ut
  | .compP => k.up && k.b5
  | .compAlt => k.pressure

/-- What is known after a request has been answered `OK`, if its operands are known (R58). -/
def checkRequest (k : Known) (src : ReqSource) : Option Known :=
  if k.operands src then some (k.learn src.result) else none

/-- What is known after a statement, if the statement can be executed. -/
def checkStmt (k : Known) : Stmt → Option Known
  | .busWr addr byte => if describedWrite addr byte then some k else none
  | .busWrPressure => some k
  | .busRd _ n => if n = 0 then none else some k
  | .wait _ => some k
  | .waitPressure => some k
  | .checkId => some k
  | .request src => checkRequest k src
  | .endOk r => if k.has r then some k else none

/-- Every statement of a list can be executed, one after the other. -/
def checkStmts : Known → List Stmt → Bool
  | _, [] => true
  | k, st :: rest =>
    match checkStmt k st with
    | some k' => checkStmts k' rest
    | none => false

/-- A pseudo-operation, or a sequence of the program's own, that can be executed. -/
def HostCall.accepted (c : HostCall) : Bool := checkStmts Known.fresh (expand c)

/-- A pending request gives the result its source names. -/
def requestFits (src : ReqSource) (w : Request) : Bool := requestResult w == src.result

/-- An `OK` response has a result to be bound. -/
def ResultVar.given (res : ResultVar) (r : Response) : Bool :=
  match res with
  | .nothing => true
  | .ut | .up | .pressure | .altitude => r.q0.isSome
  | .temperature => r.q0.isSome && r.q1.isSome

/-- A response to the request the host waits for: an `OK` one has the result its source names. -/
def responseFits (src : ReqSource) (r : Response) : Bool :=
  if r.st = .ok then src.result.given r else true

/-- While the host waits: its request is pending, or its response is there. -/
def portsFit (src : ReqSource) (s : State) : Bool :=
  match s.request with
  | some w => requestFits src w
  | none =>
    match s.response with
    | some r => responseFits src r
    | none => false

/-- The statements left can be executed, after the response the host waits for, if it waits. -/
def todoAccepted (s : State) : Bool :=
  match s.host.awaiting with
  | none => checkStmts s.host.vars.known s.host.todo
  | some src =>
    portsFit src s &&
      match checkRequest s.host.vars.known src with
      | some k => checkStmts k s.host.todo
      | none => false

/-- A state whose host program is accepted: the sequence in progress and every sequence to come. -/
def Accepted (s : State) : Prop :=
  todoAccepted s = true ∧ ∀ c ∈ s.host.calls, c.accepted = true

/-! ## Hazards

What a record of bus events says of the conversions of one sensor, and which events violate R211, R212
or R215. Where these rules are silent the check takes the following (DESIGN CHOICE, log entry 13).

* After a control write that failed, or a read of the output registers that failed, nothing is known:
  whether the conversion started, or its result was used up, the spec does not say, and a host may
  restart the whole sequence (R217).
* After a write to the soft reset register, nothing is known of a conversion (N10).
* A second read of a result in its width is no violation, and neither is a read of the output registers
  while nothing is known: no rule names it a hazard, and what the registers then hold is N12. -/

/-- What is known of a sensor's conversion. -/
inductive Conversion where
  /-- no conversion whose result is still to be read is known -/
  | quiet
  /-- a conversion was commanded and its result not read: how many bytes it has, and how many
  microseconds of its conversion time are left to wait (R211) -/
  | running (bytes us : Nat)
  /-- the result of the last conversion was read: how many bytes it has -/
  | done (bytes : Nat)
  deriving DecidableEq, Repr

/-- No result is still to be read, so that the next conversion may be commanded (R215). -/
def Conversion.settled : Conversion → Bool
  | .quiet => true
  | .running _ _ => false
  | .done _ => true

/-- The conversion a control byte starts: 2 bytes after the temperature command, 3 after a pressure
command, with the minimum wait of R211; none for a byte the spec does not describe. -/
def conversionOf (byte : Byte) : Option Conversion :=
  if byte = controlTemperature then some (.running 2 temperatureWait)
  else if byte = controlPressure 0 then some (.running 3 (pressureWait 0))
  else if byte = controlPressure 1 then some (.running 3 (pressureWait 1))
  else if byte = controlPressure 2 then some (.running 3 (pressureWait 2))
  else if byte = controlPressure 3 then some (.running 3 (pressureWait 3))
  else none

/-- A read of `n` bytes from `addr` touches an output register, `0xF6` to `0xF8` (R31, R35). -/
def touchesOutput (addr : Byte) (n : Nat) : Bool :=
  addr.toNat ≤ 0xF8 && 0xF6 < addr.toNat + n

/-- A wait of `us` microseconds. -/
def Conversion.wait (c : Conversion) (us : Nat) : Conversion :=
  match c with
  | .quiet => .quiet
  | .running bytes left => .running bytes (left - us)
  | .done bytes => .done bytes

/-- A control write of `data` with its outcome: none where a result is still to be read (R215), or where
the byte is not one the spec describes. -/
def Conversion.command (c : Conversion) (data : List Byte) (ok : Bool) : Option Conversion :=
  if c.settled then
    match data with
    | [byte] => (conversionOf byte).map fun c' => if ok then c' else .quiet
    | _ => none
  else none

/-- A read that touches an output register, with its outcome: none where the conversion time has not
been waited out (R211, R212), or where it is not the read of the width of the conversion (R215). -/
def Conversion.readOutput (c : Conversion) (addr : Byte) (n : Nat) (ok : Bool) : Option Conversion :=
  match c with
  | .quiet => some .quiet
  | .running bytes left =>
    if addr = regOutMsb ∧ n = bytes ∧ left = 0 then some (if ok then .done bytes else .quiet) else none
  | .done bytes =>
    if addr = regOutMsb ∧ n = bytes then some (if ok then .done bytes else .quiet) else none

/-- One event against the hazards of the sensor `dev`: none where it violates one. -/
def hazardStep (dev : BitVec 7) (c : Conversion) : BusEvent → Option Conversion
  | .wait us => some (c.wait us)
  | .write d addr data ok =>
    if d ≠ dev then some c
    else if addr = regCtrlMeas then c.command data ok
    else if addr = regSoftRst then some .quiet
    else some c
  | .read d addr n ok =>
    if d = dev ∧ touchesOutput addr n = true then c.readOutput addr n ok else some c

/-- What is known of the sensor `dev` after a record of bus events, from what was known before it; none
where an event violates a hazard. -/
def hazardRun (dev : BitVec 7) : Conversion → List BusEvent → Option Conversion
  | c, [] => some c
  | c, e :: es =>
    match hazardStep dev c e with
    | some c' => hazardRun dev c' es
    | none => none

/-- A record of bus events that respects R211, R212 and R215 for the sensor `dev`. -/
def hazardFree (dev : BitVec 7) (log : List BusEvent) : Bool := (hazardRun dev .quiet log).isSome

/-! ### Host programs that respect the hazards

The check looks at the statements of one sequence: every read of the output registers follows its own
command and wait, and while a result is still to be read nothing is done that can end the sequence but
that read. It is sufficient, not necessary (DESIGN CHOICE, log entry 13). -/

/-- Where a sequence stands between a command and the read of its result. -/
inductive Stage where
  /-- no result of this sequence is still to be read -/
  | free
  /-- a conversion was commanded, with so many bytes and so much time left -/
  | running (bytes us : Nat)
  /-- a pressure conversion at the level `OSS` was commanded, its wait follows -/
  | pressure
  deriving DecidableEq, Repr

/-- The stage a conversion puts a sequence in. -/
def Stage.ofConversion : Conversion → Stage
  | .quiet => .free
  | .running bytes us => .running bytes us
  | .done _ => .free

/-- One statement in a stage: none where the check does not let it pass. -/
def checkStage : Stage → Stmt → Option Stage
  | .free, st =>
    match st with
    | .busWr addr byte =>
      if addr = regCtrlMeas then (conversionOf byte).map Stage.ofConversion else some .free
    | .busWrPressure => some .pressure
    | .busRd addr n => if touchesOutput addr n then none else some .free
    | .wait _ => some .free
    | .waitPressure => some .free
    | .checkId => some .free
    | .request _ => some .free
    | .endOk _ => some .free
  | .running bytes left, st =>
    match st with
    | .wait us => some (.running bytes (left - us))
    | .busRd addr n => if addr = regOutMsb ∧ n = bytes ∧ left = 0 then some .free else none
    | .busWr _ _ | .busWrPressure | .waitPressure | .checkId | .request _ | .endOk _ => none
  | .pressure, st =>
    match st with
    | .waitPressure => some (.running 3 0)
    | .busWr _ _ | .busWrPressure | .busRd _ _ | .wait _ | .checkId | .request _ | .endOk _ => none

/-- The statements left of a sequence, from a stage on; at its end no result is still to be read. -/
def checkStages : Stage → List Stmt → Bool
  | g, [] => g == .free
  | g, st :: rest =>
    match checkStage g st with
    | some g' => checkStages g' rest
    | none => false

/-- A sequence that respects the hazards. -/
def HostCall.hazardChecked (c : HostCall) : Bool := checkStages .free (expand c)

/-- What is known of the sensor is what the stage says. -/
def Stage.fits (g : Stage) (oss : BitVec 2) (c : Conversion) : Bool :=
  match g with
  | .free => c.settled
  | .running bytes us => c == .running bytes us
  | .pressure => c == .running 3 (pressureWait oss)

/-- The hazards are respected: the record violates none for any sensor, the statements left are in a
stage that fits what is known of the unit's sensor and pass the check, no result of another sensor is
still to be read, none is while the unit works or the host waits for it, and every sequence to come
passes the check. -/
def HazardSafe (s : State) : Prop :=
  (∀ dev, dev ≠ s.cfg.busAddr →
    ∃ c, hazardRun dev .quiet s.busLog = some c ∧ c.settled = true)
  ∧ (∃ c g, hazardRun s.cfg.busAddr .quiet s.busLog = some c ∧ Stage.fits g s.oss c = true
      ∧ checkStages g s.host.todo = true
      ∧ (s.request ≠ none ∨ s.host.awaiting ≠ none → g = .free))
  ∧ ∀ c ∈ s.host.calls, c.hazardChecked = true

end Sys2Proof.Machine
end

