-- ==== Sys2Proof/Certificates/Slice0/Obligations.lean ====
section
/-! DEFINITION. The statements for the provers, and before them the formulas of the spec's rules over the
mathematical integers, in the spec's own notation (spec/00_scope.md R8). -/

open Sys2Proof Sys2Proof.Machine

namespace Sys2Proof.Rules

/-! ## The rules' formulas over the integers -/

/-- `wrap_s32(z)` (R8): the `i32` congruent to `z` modulo 2^32. -/
def wrapS (z : Int) : Int := (z + 2147483648) % 4294967296 - 2147483648

/-- `wrap_u32(z)` (R8): the `u32` congruent to `z` modulo 2^32. -/
def wrapU (z : Int) : Int := z % 4294967296

/-- The value of a signed coefficient (R11). -/
def sval (h : Half) : Int := h.toInt

/-- The value of an unsigned coefficient (R11). -/
def uval (h : Half) : Int := h.toNat

/-- The 32-bit pattern of an integer (R8). -/
def bits (z : Int) : Word := BitVec.ofInt 32 z

/-- `x1` (R101). -/
def tX1 (c : Cal) (ut : Int) : Int := wrapS (wrapS (ut - uval c.ac6) * uval c.ac5) / 2 ^ 15

/-- `den` (R102). -/
def tDen (c : Cal) (ut : Int) : Int := wrapS (tX1 c ut + sval c.md)

/-- `x2` (R103). -/
def tX2 (c : Cal) (ut : Int) : Int := (wrapS (sval c.mc * 2 ^ 11)).tdiv (tDen c ut)

/-- `b5` (R104). -/
def tB5 (c : Cal) (ut : Int) : Int := wrapS (tX1 c ut + tX2 c ut)

/-- `t10` (R105). -/
def tT10 (c : Cal) (ut : Int) : Int := wrapS (tB5 c ut + 8) / 2 ^ 4

/-- `b6` (R111). -/
def pB6 (b5 : Int) : Int := wrapS (b5 - 4000)

/-- `sq` (R112). -/
def pSq (b5 : Int) : Int := wrapS (pB6 b5 * pB6 b5) / 2 ^ 12

/-- `x1` (R113). -/
def pX1 (c : Cal) (b5 : Int) : Int := wrapS (sval c.b2 * pSq b5) / 2 ^ 11

/-- `x2` (R113). -/
def pX2 (c : Cal) (b5 : Int) : Int := wrapS (sval c.ac2 * pB6 b5) / 2 ^ 11

/-- `x3` (R113). -/
def pX3 (c : Cal) (b5 : Int) : Int := wrapS (pX1 c b5 + pX2 c b5)

/-- `b3` (R114). -/
def pB3 (c : Cal) (oss : Nat) (b5 : Int) : Int :=
  (wrapS (wrapS (wrapS (wrapS (sval c.ac1 * 4) + pX3 c b5) * 2 ^ oss) + 2)).tdiv 4

/-- `x1b` (R115). -/
def pX1b (c : Cal) (b5 : Int) : Int := wrapS (sval c.ac3 * pB6 b5) / 2 ^ 13

/-- `x2b` (R115). -/
def pX2b (c : Cal) (b5 : Int) : Int := wrapS (sval c.b1 * pSq b5) / 2 ^ 16

/-- `x3b` (R115). -/
def pX3b (c : Cal) (b5 : Int) : Int := wrapS (wrapS (pX1b c b5 + pX2b c b5) + 2) / 2 ^ 2

/-- `m4` (R116). -/
def pM4 (c : Cal) (b5 : Int) : Int := wrapU (wrapU (pX3b c b5) + 0x8000)

/-- `b4` (R116). -/
def pB4 (c : Cal) (b5 : Int) : Int := wrapU (uval c.ac4 * pM4 c b5) / 2 ^ 15

/-- `b7` (R117, R118, R119), of the checked difference of the unsigned values. -/
def pB7 (c : Cal) (oss : Nat) (up b5 : Int) : Int :=
  wrapU ((wrapU up - wrapU (pB3 c oss b5)) * (50000 / 2 ^ oss))

/-- `pu` (R121). -/
def pPu (b7 b4 : Int) : Int :=
  if b7 < 0x80000000 then wrapU (b7 * 2 / b4) else wrapU (b7 / b4 * 2)

/-- `pressure` (R124 to R126), of `p` and the checked square. -/
def pTail (p y1sq : Int) : Int :=
  wrapS (p + wrapS (wrapS (wrapS (y1sq * 3038) / 2 ^ 16 + wrapS (-7357 * p) / 2 ^ 16) + 3791) / 2 ^ 4)

/-- From `p` on (R123): no result when the square of `ps = p >>a 8` leaves the `i32` range. -/
def pFromP (p : Int) : Option Int :=
  if 2 ^ 31 - 1 < p / 2 ^ 8 * (p / 2 ^ 8) then none else some (pTail p (p / 2 ^ 8 * (p / 2 ^ 8)))

/-- The pressure by the rules R111 to R126, or none where one of the three checks fails (R118, R120,
R123, R127). -/
def pressureRule (c : Cal) (oss : Nat) (up b5 : Int) : Option Int :=
  if wrapU up < wrapU (pB3 c oss b5) then none
  else if pB4 c b5 = 0 then none
  else pFromP (wrapS (pPu (pB7 c oss up b5) (pB4 c b5)))

/-! The same two formulas without any wrap (R107, R128). -/

/-- `x1` without a wrap. -/
def tX1Exact (c : Cal) (ut : Int) : Int := (ut - uval c.ac6) * uval c.ac5 / 2 ^ 15

/-- `b5` without a wrap. -/
def tB5Exact (c : Cal) (ut : Int) : Int :=
  tX1Exact c ut + (sval c.mc * 2 ^ 11).tdiv (tX1Exact c ut + sval c.md)

/-- `b3` without a wrap. -/
def pB3Exact (c : Cal) (oss : Nat) (b5 : Int) : Int :=
  ((sval c.ac1 * 4 + (sval c.b2 * ((b5 - 4000) * (b5 - 4000) / 2 ^ 12) / 2 ^ 11
    + sval c.ac2 * (b5 - 4000) / 2 ^ 11)) * 2 ^ oss + 2).tdiv 4

/-- `b4` without a wrap: the intended value `x3b + 32768` in place of `m4` (R116). -/
def pB4Exact (c : Cal) (b5 : Int) : Int :=
  uval c.ac4 * ((sval c.ac3 * (b5 - 4000) / 2 ^ 13
    + sval c.b1 * ((b5 - 4000) * (b5 - 4000) / 2 ^ 12) / 2 ^ 16 + 2) / 2 ^ 2 + 32768) / 2 ^ 15

/-- The quotient of R121 without a wrap. -/
def pQuotExact (c : Cal) (oss : Nat) (up b5 : Int) : Int :=
  if (up - pB3Exact c oss b5) * (50000 / 2 ^ oss) < 0x80000000
  then (up - pB3Exact c oss b5) * (50000 / 2 ^ oss) * 2 / pB4Exact c b5
  else (up - pB3Exact c oss b5) * (50000 / 2 ^ oss) / pB4Exact c b5 * 2

/-- The pressure of a quotient `p` without a wrap (R123 to R126). -/
def pTailExact (p : Int) : Int :=
  p + (p / 2 ^ 8 * (p / 2 ^ 8) * 3038 / 2 ^ 16 + -7357 * p / 2 ^ 16 + 3791) / 2 ^ 4

/-- The pressure over the mathematical integers, with floor shifts and truncating divisions (R128). -/
def pressureExact (c : Cal) (oss : Nat) (up b5 : Int) : Option Int :=
  if pB3Exact c oss b5 < 0 ∨ up < pB3Exact c oss b5 then none
  else if pB4Exact c b5 = 0 then none
  else some (pTailExact (pQuotExact c oss up b5))

/-! ## Calibration images and transactions -/

/-- The eleven patterns of a calibration image, `image k` the byte at `0xAA + k`: coefficient `i` is
`256 * high + low` with the high byte at `0xAA + 2*i` (R32, R82). -/
def imageWord (image : Nat → Byte) (i : Nat) : Half :=
  BitVec.ofNat 16 (256 * (image (2 * i)).toNat + (image (2 * i + 1)).toNat)

/-- The coefficients of a calibration image, in the order of R10. -/
def imageCal (image : Nat → Byte) : Cal :=
  ⟨imageWord image 0, imageWord image 1, imageWord image 2, imageWord image 3, imageWord image 4,
    imageWord image 5, imageWord image 6, imageWord image 7, imageWord image 8, imageWord image 9,
    imageWord image 10⟩

/-- Read number `k` of a `CAL.LOAD` with its outcome (R38, R81): 1 byte at `0xAA + k` in `bytewise` mode,
2 bytes at `0xAA + 2*k` in `pairwise` mode. -/
def calRead (mode : FetchMode) (dev : BitVec 7) (k : Nat) (ok : Bool) : BusEvent :=
  match mode with
  | .bytewise => .read dev (0xAA + BitVec.ofNat 8 k) 1 ok
  | .pairwise => .read dev (0xAA + BitVec.ofNat 8 (2 * k)) 2 ok

/-- The first `n` reads of a `CAL.LOAD`, all succeeding. -/
def calReads (mode : FetchMode) (dev : BitVec 7) (n : Nat) : List BusEvent :=
  (List.range n).map fun k => calRead mode dev k true

/-- How many reads a whole `CAL.LOAD` has (R38, R81). -/
def calReadCount : FetchMode → Nat
  | .bytewise => 22
  | .pairwise => 11

/-- The answers of a sensor whose calibration range holds an image to the first `n` of those reads. -/
def imageAnswers (mode : FetchMode) (image : Nat → Byte) (n : Nat) : List BusAnswer :=
  (List.range n).map fun k =>
    match mode with
    | .bytewise => .ok [image k]
    | .pairwise => .ok [image (2 * k), image (2 * k + 1)]

/-! ## Host sequences -/

/-- The host is about to begin the sequence `c`: no request is pending, nothing is awaited, no
statement is left, and `c` is the next call. -/
def Begins (c : HostCall) (cs : List HostCall) (s : State) : Prop :=
  s.request = none ∧ s.host.awaiting = none ∧ s.host.todo = [] ∧ s.host.calls = c :: cs

/-- The sequence has ended with `e`: no statement left, nothing awaited, no request pending, the
remaining calls as they were. -/
def Ended (e : HostEnd) (cs : List HostCall) (t : State) : Prop :=
  t.host.last = some e ∧ t.host.todo = [] ∧ t.host.awaiting = none ∧ t.host.calls = cs
    ∧ t.request = none

/-- The unit's own state is the same (R10, R14 to R17). -/
def SameUnit (s t : State) : Prop :=
  t.cfg = s.cfg ∧ t.cal = s.cal ∧ t.oss = s.oss ∧ t.slp = s.slp ∧ t.calv = s.calv

/-- The bus events of `ACQ.T` (R154). -/
def eventsAcqT (dev : BitVec 7) : List BusEvent :=
  [.write dev 0xF4 [0x2E] true, .wait 5000, .read dev 0xF6 2 true]

/-- The bus events of `ACQ.P` at a level (R155). -/
def eventsAcqP (dev : BitVec 7) (oss : BitVec 2) : List BusEvent :=
  [.write dev 0xF4 [0x34 + (oss.setWidth 8 <<< 6)] true,
    .wait (if oss = 0 then 4500 else if oss = 1 then 7500 else if oss = 2 then 13000 else 25500),
    .read dev 0xF6 3 true]

/-- The raw temperature code of two bytes (R90). -/
def utOf (msb lsb : Byte) : Int := 256 * msb.toNat + lsb.toNat

/-- The raw pressure code of three bytes at a level (R91). -/
def upOf (oss : BitVec 2) (msb lsb xlsb : Byte) : Int :=
  (65536 * msb.toNat + 256 * lsb.toNat + xlsb.toNat : Int) / 2 ^ (8 - oss.toNat)

/-- The binary32 temperature of `t10` tenths (R105). -/
def celsius (t10 : Int) : F32 := F32.div (F32.nanOf 0) (F32.ofI32 (bits t10)) F32.ten

end Sys2Proof.Rules

open Sys2Proof.Rules

/-! ## Encoding -/

/-- Words written out from the opcode map decode to the operation they stand for (R50, R52, R54). -/
def Obligations.TabledWordsDecode : Prop :=
  decode 0x10_00000000_00000000 = .instr (.calLoad 0 0)
    ∧ decode 0x20_00006CFA_00000000 = .instr (.asmUt 0x6CFA 0)
    ∧ decode 0x21_005D2300_00000000 = .instr (.asmUp 0x5D2300 0)
    ∧ decode 0x30_00006CFA_DEADBEEF = .instr (.compT 0x6CFA 0xDEADBEEF)
    ∧ decode 0x31_00005D23_0000095F = .instr (.compP 0x5D23 0x95F)
    ∧ decode 0x32_00016E72_00000000 = .instr (.compAlt 0x16E72 0)
    ∧ decode 0x43_00000000_00000000 = .instr (.setOss 3 0 0)
    ∧ decode 0x50_000186A0_00000000 = .instr (.setSlp 0x186A0 0)

/-- Exactly the eleven opcode values of R52 are operations, and each is the one the map gives. -/
def Obligations.OpcodeMapIsTheElevenValues : Prop :=
  ∀ w : Request, decode w =
    (if reqOpc w = 0x10 then .instr (.calLoad (reqA w) (reqB w))
    else if reqOpc w = 0x20 then .instr (.asmUt (reqA w) (reqB w))
    else if reqOpc w = 0x21 then .instr (.asmUp (reqA w) (reqB w))
    else if reqOpc w = 0x30 then .instr (.compT (reqA w) (reqB w))
    else if reqOpc w = 0x31 then .instr (.compP (reqA w) (reqB w))
    else if reqOpc w = 0x32 then .instr (.compAlt (reqA w) (reqB w))
    else if reqOpc w = 0x40 then .instr (.setOss 0 (reqA w) (reqB w))
    else if reqOpc w = 0x41 then .instr (.setOss 1 (reqA w) (reqB w))
    else if reqOpc w = 0x42 then .instr (.setOss 2 (reqA w) (reqB w))
    else if reqOpc w = 0x43 then .instr (.setOss 3 (reqA w) (reqB w))
    else if reqOpc w = 0x50 then .instr (.setSlp (reqA w) (reqB w))
    else .illegalOp (reqOpc w))

/-- Decoding the request an operation is encoded as gives the operation back, with every operand at
every value. -/
def Obligations.DecodeOfEncode : Prop :=
  ∀ i : Instr, i.wellFormed = true → decode (encode i) = .instr i

/-- A request that decodes is the encoding of what it decodes to: no bit of it is dropped. That an
operation keeps the operand fields it ignores, and so the whole request, is the model's choice (DESIGN
CHOICE, log entry 15): to the spec, two requests of one opcode that differ in ignored bits are the same
operation (R50). -/
def Obligations.EncodeOfDecode : Prop :=
  ∀ (w : Request) (i : Instr), decode w = .instr i → encode i = w

/-- The decoder accepts a request exactly when one row of spec/opcode_table.json matches it, and then
the operation is that row's. -/
def Obligations.DecoderAgreesWithOpcodeTable : Prop :=
  ∀ w : Request,
    (∀ i, decode w = .instr i →
      (opcodeTable.filter fun r => r.matches w).map OpcodeRow.mnemonic = [mnemonicOf i])
    ∧ (∀ opc, decode w = .illegalOp opc → (opcodeTable.filter fun r => r.matches w) = [])

/-- A request is well formed exactly when it decodes to an operation (R55). -/
def Obligations.WellFormedIffDecodes : Prop :=
  ∀ w : Request, Request.wellFormed w = true ↔ ∃ i, decode w = .instr i

/-! ## The step -/

/-- A step executes the pending request: it frees the request port and runs the operation the request
decodes to, and it adds nothing else. -/
def Obligations.StepRunsThePendingRequest : Prop :=
  ∀ (s : State) (w : Request) (i : Instr), s.request = some w → decode w = .instr i →
    step s = exec i { s with request := none }

/-- A request whose opcode is not listed answers `ILLEGAL_OP`, reads and writes no state and performs
no bus transaction (R55). -/
def Obligations.IllegalOpcodeAnswersIllegalOp : Prop :=
  ∀ (s : State) (w : Request), s.request = some w →
    reqOpc w ∉ [0x10, 0x20, 0x21, 0x30, 0x31, 0x32, 0x40, 0x41, 0x42, 0x43, 0x50] →
    step s = .next { s with request := none, response := some ⟨.illegalOp, none, none, none⟩ }

/-- Every operation completes in every state, whatever its operands. That `COMP.T` with a zero divisor
completes too, with `TEMP_DIV_ZERO` as its answer, and is no fault of the model (R102, R174, U5) is the
model's choice (DEDUCED, log entry 1). -/
def Obligations.EveryOperationCompletes : Prop :=
  ∀ (i : Instr) (s : State), ∃ t, exec i s = .next t

/-- An operand field or operand bits that an operation does not use do not matter (R50, R53). -/
def Obligations.IgnoredOperandsDoNotMatter : Prop :=
  ∀ (a a' b b' : Word) (l : BitVec 2) (s : State),
    exec (.calLoad a b) s = exec (.calLoad a' b') s
    ∧ (a.extractLsb' 0 16 = a'.extractLsb' 0 16 → exec (.asmUt a b) s = exec (.asmUt a' b') s)
    ∧ (a.extractLsb' 0 24 = a'.extractLsb' 0 24 → exec (.asmUp a b) s = exec (.asmUp a' b') s)
    ∧ exec (.compT a b) s = exec (.compT a b') s
    ∧ exec (.compAlt a b) s = exec (.compAlt a b') s
    ∧ exec (.setOss l a b) s = exec (.setOss l a' b') s
    ∧ exec (.setSlp a b) s = exec (.setSlp a b') s

/-! ## CAL.LOAD -/

/-- With every transaction succeeding over a calibration image, `CAL.LOAD` performs exactly the reads
of the fetch mode in ascending order, commits the eleven coefficients and `CALV`, answers `OK`, and
changes nothing else (R80, R81, R82). -/
def Obligations.CalLoadCommitsTheImage : Prop :=
  ∀ (a b : Word) (s : State) (image : Nat → Byte) (rest : List BusAnswer),
    s.answers = imageAnswers s.cfg.fetchMode image (calReadCount s.cfg.fetchMode) ++ rest →
    exec (.calLoad a b) s = .next
      { s with
        cal := imageCal image
        calv := true
        response := some ⟨.ok, none, none, none⟩
        answers := rest
        draws := s.draws + calReadCount s.cfg.fetchMode
        busLog := s.busLog
          ++ calReads s.cfg.fetchMode s.cfg.busAddr (calReadCount s.cfg.fetchMode) }

/-- When transaction `n` fails, `CAL.LOAD` stops at once: no further transaction, the coefficients and
`CALV` as they were before, and `BUS_ERROR` with the failure verbatim (R85). -/
def Obligations.CalLoadFailureKeepsPriorState : Prop :=
  ∀ (a b : Word) (s : State) (image : Nat → Byte) (n : Nat) (e : BusErr) (rest : List BusAnswer),
    n < calReadCount s.cfg.fetchMode →
    s.answers = imageAnswers s.cfg.fetchMode image n ++ .err e :: rest →
    exec (.calLoad a b) s = .next
      { s with
        response := some ⟨.busError, none, none, some e⟩
        answers := rest
        draws := s.draws + (n + 1)
        busLog := s.busLog ++ (calReads s.cfg.fetchMode s.cfg.busAddr n
          ++ [calRead s.cfg.fetchMode s.cfg.busAddr n false]) }

/-- Whatever the environment answers, `CAL.LOAD` ends `OK` with `CALV = 1`, or it ends `BUS_ERROR`
with the coefficients and `CALV` as they were (R84). -/
def Obligations.CalLoadIsAllOrNothing : Prop :=
  ∀ (a b : Word) (s t : State), exec (.calLoad a b) s = .next t →
    (t.response = some ⟨.ok, none, none, none⟩ ∧ t.calv = true)
    ∨ (∃ e, t.response = some ⟨.busError, none, none, some e⟩ ∧ t.cal = s.cal ∧ t.calv = s.calv)

/-- Whatever the environment answers, the transactions of a `CAL.LOAD` are the reads of its fetch mode in
ascending order and no write: all of them when it ends `OK`, and when it ends `BUS_ERROR` the ones up to
the read that failed (R38, R81, R85). -/
def Obligations.CalLoadReadsTheCalibrationRangeInOrder : Prop :=
  ∀ (a b : Word) (s t : State), exec (.calLoad a b) s = .next t →
    (t.response = some ⟨.ok, none, none, none⟩
      ∧ t.busLog = s.busLog
        ++ calReads s.cfg.fetchMode s.cfg.busAddr (calReadCount s.cfg.fetchMode))
    ∨ ∃ (e : BusErr) (n : Nat), n < calReadCount s.cfg.fetchMode
      ∧ t.response = some ⟨.busError, none, none, some e⟩
      ∧ t.busLog = s.busLog ++ (calReads s.cfg.fetchMode s.cfg.busAddr n
        ++ [calRead s.cfg.fetchMode s.cfg.busAddr n false])

/-- For the same 22 bytes and every transaction succeeding, the two fetch modes leave the same
coefficients (R86). -/
def Obligations.FetchModesAgree : Prop :=
  ∀ (a b : Word) (s1 s2 : State) (image : Nat → Byte) (rest1 rest2 : List BusAnswer),
    s1.cfg.fetchMode = .bytewise → s2.cfg.fetchMode = .pairwise →
    s1.answers = imageAnswers .bytewise image 22 ++ rest1 →
    s2.answers = imageAnswers .pairwise image 11 ++ rest2 →
    ∃ t1 t2, exec (.calLoad a b) s1 = .next t1 ∧ exec (.calLoad a b) s2 = .next t2
      ∧ t1.cal = t2.cal ∧ t1.calv = true ∧ t2.calv = true

/-! ## ASM.UT, ASM.UP -/

/-- `ASM.UT`: the opcode, the assembled code, its range, and nothing else changed (R90). -/
def Obligations.AsmUtAssemblesTheRawTemperature : Prop :=
  (∀ w : Request, reqOpc w = 0x20 → decode w = .instr (.asmUt (reqA w) (reqB w)))
  ∧ ∀ (a b : Word) (s : State), ∃ ut : Word,
    exec (.asmUt a b) s = .next { s with response := some ⟨.ok, some ut, none, none⟩ }
    ∧ ut.toInt = utOf (a.extractLsb' 8 8) (a.extractLsb' 0 8)
    ∧ 0 ≤ ut.toInt ∧ ut.toInt ≤ 65535

/-- `ASM.UP`: the opcode, the assembled code at the level `OSS`, its range, and nothing else changed
(R91). -/
def Obligations.AsmUpAssemblesTheRawPressure : Prop :=
  (∀ w : Request, reqOpc w = 0x21 → decode w = .instr (.asmUp (reqA w) (reqB w)))
  ∧ ∀ (a b : Word) (s : State), ∃ up : Word,
    exec (.asmUp a b) s = .next { s with response := some ⟨.ok, some up, none, none⟩ }
    ∧ up.toInt = upOf s.oss (a.extractLsb' 16 8) (a.extractLsb' 8 8) (a.extractLsb' 0 8)
    ∧ 0 ≤ up.toInt ∧ up.toInt ≤ 2 ^ (16 + s.oss.toNat) - 1

/-- The oversampling table (R92): for each level the control byte, the minimum wait, the right shift,
the width of the raw code and the scale. -/
def Obligations.OversamplingTable : Prop :=
  [0, 1, 2, 3].map (fun l : BitVec 2 =>
      (controlPressure l, pressureWait l, assemblyShift l, rawPressure l 0xFF 0xFF 0xFF + 1,
        pressureScale l))
    = [(0x34, 4500, 8, 2 ^ 16, 50000), (0x74, 7500, 7, 2 ^ 17, 25000),
       (0xB4, 13000, 6, 2 ^ 18, 12500), (0xF4, 25500, 5, 2 ^ 19, 6250)]

/-! ## COMP.T -/

/-- `COMP.T` with a divisor that is not zero: the temperature of `t10` tenths and `b5`, computed as
the rules say over wrapped integers, and nothing else changed (R101 to R106). -/
def Obligations.CompTAnswersTemperatureAndB5 : Prop :=
  ∀ (a b : Word) (s : State), tDen s.cal a.toInt ≠ 0 →
    exec (.compT a b) s = .next
      { s with response := some ⟨.ok, some (celsius (tT10 s.cal a.toInt)),
          some (bits (tB5 s.cal a.toInt)), none⟩ }

/-- `COMP.T` with the divisor `x1 + MD` zero: the outcome `TEMP_DIV_ZERO`, no result, no state
changed (R102). That this is a next state of the model and not a fault is the model's choice (DEDUCED,
log entry 1). -/
def Obligations.CompTRaisesTempDivZero : Prop :=
  ∀ (a b : Word) (s : State), tDen s.cal a.toInt = 0 →
    exec (.compT a b) s = .next { s with response := some ⟨.tempDivZero, none, none, none⟩ }

/-- With all coefficients zero, the state after reset, `COMP.T` ends with `TEMP_DIV_ZERO` for every
raw temperature and `COMP.P` with `INVALID_CALIBRATION` for every raw pressure, whatever `CALV` holds
(R108, R129, R204). That the first is a next state of the model and not a fault is the model's choice
(DEDUCED, log entry 1). -/
def Obligations.ZeroCalibrationFailsByValue : Prop :=
  ∀ (a b : Word) (s : State), s.cal = Cal.zero →
    exec (.compT a b) s = .next { s with response := some ⟨.tempDivZero, none, none, none⟩ }
    ∧ exec (.compP a b) s = .next
        { s with response := some ⟨.invalidCalibration, none, none, none⟩ }

/-- Inside the envelope of R107 no step of `COMP.T` wraps: with a raw temperature of 16 bits and
`AC5 ≤ 32767`, the result is the formula over the mathematical integers. -/
def Obligations.CompTIsExactInItsEnvelope : Prop :=
  ∀ (a b : Word) (s : State), 0 ≤ a.toInt → a.toInt ≤ 65535 → s.cal.ac5.toNat ≤ 32767 →
    tX1Exact s.cal a.toInt + sval s.cal.md ≠ 0 →
    exec (.compT a b) s = .next
      { s with response := some ⟨.ok, some (celsius ((tB5Exact s.cal a.toInt + 8) / 2 ^ 4)),
          some (bits (tB5Exact s.cal a.toInt)), none⟩ }

/-- The temperature is the binary32 value nearest to `t10 / 10` (R105), for every `t10` whose
conversion is exact. -/
def Obligations.TemperatureIsTheNearestBinary32 : Prop :=
  ∀ (t10 : Int) (y : F32), t10.natAbs ≤ 2 ^ 24 → F32.isFinite y = true →
    F32.isFinite (celsius t10) = true
    ∧ |F32.value (celsius t10) - (t10 : Rat) / 10| ≤ |F32.value y - (t10 : Rat) / 10|

/-! ## COMP.P -/

/-- `COMP.P` where none of the three checks fails: the pressure of the rules R111 to R126 over wrapped
integers, and nothing else changed. -/
def Obligations.CompPAnswersThePressure : Prop :=
  ∀ (a b : Word) (s : State) (p : Int),
    pressureRule s.cal s.oss.toNat a.toInt b.toInt = some p →
    exec (.compP a b) s = .next { s with response := some ⟨.ok, some (bits p), none, none⟩ }
    ∧ (bits p).toInt = p

/-- `COMP.P` where one of the three checks fails: `INVALID_CALIBRATION`, no result, no state changed
(R118, R120, R123, R127). -/
def Obligations.CompPRaisesInvalidCalibration : Prop :=
  ∀ (a b : Word) (s : State), pressureRule s.cal s.oss.toNat a.toInt b.toInt = none →
    exec (.compP a b) s = .next
      { s with response := some ⟨.invalidCalibration, none, none, none⟩ }

/-- Inside the envelope of R128 `COMP.P` equals the formula over the mathematical integers with floor
shifts and truncating divisions, for arbitrary coefficients. -/
def Obligations.CompPIsExactInItsEnvelope : Prop :=
  ∀ (a b : Word) (s : State), -4192 ≤ b.toInt → b.toInt ≤ 12192 → 0 ≤ a.toInt →
    a.toInt ≤ 2 ^ (16 + s.oss.toNat) - 1 →
    pQuotExact s.cal s.oss.toNat a.toInt b.toInt ≤ 215295 →
    exec (.compP a b) s = .next
      { s with response :=
          match pressureExact s.cal s.oss.toNat a.toInt b.toInt with
          | some p => some ⟨.ok, some (bits p), none, none⟩
          | none => some ⟨.invalidCalibration, none, none, none⟩ }

/-- The second checked point in terms of `p`: the operation passes exactly when
`-11863040 ≤ p ≤ 11863295` (R123). -/
def Obligations.SquareCheckPassesExactlyInItsRange : Prop :=
  ∀ p : Word, (pressFromP p).isSome ↔ -11863040 ≤ p.toInt ∧ p.toInt ≤ 11863295

/-- The result of `COMP.P` depends on `AC1` to `AC4`, `B1`, `B2`, `OSS` and its operands, and that of
`COMP.T` on `AC5`, `AC6`, `MC`, `MD` and its operand, and on nothing else; in particular neither
depends on `CALV` or `MB` (R12, R13, R106, R110). -/
def Obligations.CompensationReadsOnlyItsCoefficients : Prop :=
  ∀ (a b : Word) (s s' t t' : State),
    (s.oss = s'.oss → s.cal.ac1 = s'.cal.ac1 → s.cal.ac2 = s'.cal.ac2 → s.cal.ac3 = s'.cal.ac3 →
      s.cal.ac4 = s'.cal.ac4 → s.cal.b1 = s'.cal.b1 → s.cal.b2 = s'.cal.b2 →
      exec (.compP a b) s = .next t → exec (.compP a b) s' = .next t' → t.response = t'.response)
    ∧ (s.cal.ac5 = s'.cal.ac5 → s.cal.ac6 = s'.cal.ac6 → s.cal.mc = s'.cal.mc →
      s.cal.md = s'.cal.md →
      exec (.compT a b) s = .next t → exec (.compT a b) s' = .next t' → t.response = t'.response)

/-! ## COMP.ALT -/

/-- `COMP.ALT` answers `OK` whatever the operand and whatever `SLP` holds: the altitude of the
binary32 formula over the power function and the exponent, each operation rounded once (R130, R131,
R133, R134). For a pressure of zero the altitude is some value, of which nothing is said (R135, C5, U6).
The NaN patterns and the altitude of a pressure of zero are the model's free values, and that a reference
of zero or less gives what the formula gives is the model's choice (DESIGN CHOICE, log entries 9 and
10). -/
def Obligations.CompAltAnswersTheAltitude : Prop :=
  ∀ (a b : Word) (s : State),
    (a ≠ 0 → ∃ n1 n2 n3 : F32,
      F32.isNan n1 = true ∧ F32.isNan n2 = true ∧ F32.isNan n3 = true
      ∧ exec (.compAlt a b) s = .next
        { s with
          draws := s.draws + 3
          response := some ⟨.ok, some (F32.mul n3 0x472D2A00 (F32.sub n2 0x3F800000
            (pow32 (F32.div n1 (F32.ofI32 a) (F32.ofI32 s.slp)) 0x3E42DCAE))), none, none⟩ })
    ∧ (a = 0 → ∃ alt : F32, exec (.compAlt a b) s = .next
        { s with draws := s.draws + 3, response := some ⟨.ok, some alt, none, none⟩ })

/-- For a negative pressure over a positive reference the altitude is not finite (R133, R135). -/
def Obligations.NegativePressureAltitudeIsNotFinite : Prop :=
  ∀ (a b : Word) (s t : State), a.toInt < 0 → 0 < s.slp.toInt →
    exec (.compAlt a b) s = .next t →
    ∃ alt, t.response = some ⟨.ok, some alt, none, none⟩ ∧ F32.isFinite alt = false

/-- At the source's test point the altitude lies within 0.5 of 645 (R133). -/
def Obligations.AltitudeAtTheTestPoint : Prop :=
  ∀ (b : Word) (s t : State), s.slp = 101325 → exec (.compAlt 93810 b) s = .next t →
    ∃ alt, t.response = some ⟨.ok, some alt, none, none⟩ ∧ F32.isFinite alt = true
      ∧ (1289 : Rat) / 2 ≤ F32.value alt ∧ F32.value alt ≤ (1291 : Rat) / 2

/-- The ratio of a pressure equal to a reference that is not zero is exactly `1.0` (R135). -/
def Obligations.EqualPressureHasRatioOne : Prop :=
  ∀ (nan : F32) (p : Word), p ≠ 0 → altRatio nan p p = 0x3F800000

/-- The floating-point constants: the patterns and their exact values, and the exponent `E` evaluated
once in binary32 (R69, R132). -/
def Obligations.FloatConstants : Prop :=
  F32.ten = 0x41200000 ∧ F32.value F32.ten = 10
    ∧ F32.c44330 = 0x472D2A00 ∧ F32.value F32.c44330 = 44330
    ∧ F32.one = 0x3F800000 ∧ F32.value F32.one = 1
    ∧ F32.c5255 = 0x40A828F6 ∧ F32.value F32.c5255 = 525500011444091796875 / 100000000000000000000
    ∧ F32.div (F32.nanOf 0) F32.one F32.c5255 = 0x3E42DCAE ∧ altExponent = 0x3E42DCAE

/-! ## Binary32 -/

/-- `v as f32` is exact when `|v| ≤ 2^24` (R68). -/
def Obligations.SmallIntegersConvertExactly : Prop :=
  ∀ v : Word, v.toInt.natAbs ≤ 2 ^ 24 →
    F32.isFinite (F32.ofI32 v) = true ∧ F32.value (F32.ofI32 v) = (v.toInt : Rat)

/-- Rounding is to the nearest binary32 value, ties to even: no finite value is nearer, and of two
different values equally near the one with the even pattern is taken (R67). -/
def Obligations.RoundingIsToNearestEven : Prop :=
  ∀ (neg : Bool) (n d : Nat) (y : F32), 0 < d → F32.isFinite y = true →
    F32.isFinite (F32.round neg n d) = true →
    |F32.value (F32.round neg n d) - (if neg then -((n : Rat) / d) else (n : Rat) / d)|
      ≤ |F32.value y - (if neg then -((n : Rat) / d) else (n : Rat) / d)|
    ∧ (|F32.value (F32.round neg n d) - (if neg then -((n : Rat) / d) else (n : Rat) / d)|
        = |F32.value y - (if neg then -((n : Rat) / d) else (n : Rat) / d)| →
      F32.value y ≠ F32.value (F32.round neg n d) → (F32.round neg n d).toNat % 2 = 0)

/-! ## SET.OSS, SET.SLP -/

/-- `SET.OSS l`, encoded `0x40 | l`, writes the level and answers `OK`; nothing else changes (R140). -/
def Obligations.SetOssWritesTheLevel : Prop :=
  ∀ (l : BitVec 2) (a b : Word) (s : State),
    reqOpc (encode (.setOss l a b)) = 0x40 ||| l.setWidth 8
    ∧ exec (.setOss l a b) s = .next { s with oss := l, response := some ⟨.ok, none, none, none⟩ }

/-- The level is read by `ASM.UP` and `COMP.P` only (R14, R140): any other operation, at any other
level, does exactly what it does at this one and leaves the level it found. -/
def Obligations.LevelIsReadByTwoOperationsOnly : Prop :=
  ∀ (i : Instr) (l : BitVec 2) (s t : State),
    (∀ a b, i ≠ .asmUp a b) → (∀ a b, i ≠ .compP a b) → (∀ l' a b, i ≠ .setOss l' a b) →
    exec i s = .next t → exec i { s with oss := l } = .next { t with oss := l }

/-- `SET.SLP`, encoded `0x50`, writes a positive reference and rejects any other, leaving `SLP` as it
was; nothing else changes (R141). -/
def Obligations.SetSlpAcceptsPositiveOnly : Prop :=
  ∀ (a b : Word) (s : State),
    reqOpc (encode (.setSlp a b)) = 0x50
    ∧ (0 < a.toInt → exec (.setSlp a b) s = .next
        { s with slp := a, response := some ⟨.ok, none, none, none⟩ })
    ∧ (a.toInt ≤ 0 → exec (.setSlp a b) s = .next
        { s with response := some ⟨.rejected, none, none, none⟩ })

/-! ## What every operation leaves alone -/

/-- Which operation writes which register: only `CAL.LOAD` writes `CAL` and `CALV`, and it never clears
`CALV`; only `SET.OSS` writes `OSS`; only `SET.SLP` writes `SLP`; none writes the configuration
(R13, R14, R15, R16, R17, R142). -/
def Obligations.EachRegisterHasOneWriter : Prop :=
  ∀ (i : Instr) (s t : State), exec i s = .next t →
    t.cfg = s.cfg
    ∧ (t.cal ≠ s.cal ∨ t.calv ≠ s.calv → ∃ a b, i = .calLoad a b)
    ∧ (s.calv = true → t.calv = true)
    ∧ (t.oss ≠ s.oss → ∃ l a b, i = .setOss l a b ∧ t.oss = l)
    ∧ (t.slp ≠ s.slp → ∃ a b, i = .setSlp a b ∧ t.slp = a)

/-- Only `CAL.LOAD` performs bus transactions, no operation waits, presents a request or touches the
host, and only `CAL.LOAD` and `COMP.ALT` draw free values (R30, R48, R106, R140, R141). -/
def Obligations.OperationsLeaveTheEnvironmentAlone : Prop :=
  ∀ (i : Instr) (s t : State), exec i s = .next t →
    t.host = s.host ∧ t.request = s.request
    ∧ ((∀ a b, i ≠ .calLoad a b) → t.busLog = s.busLog ∧ t.answers = s.answers)
    ∧ ((∀ a b, i ≠ .calLoad a b) → (∀ a b, i ≠ .compAlt a b) → t.draws = s.draws)

/-- A non-OK outcome gives no result and leaves the unit's state as it was before the request; `BERR`
is there exactly for `BUS_ERROR` (R51, R176). -/
def Obligations.NonOkOutcomeLeavesTheUnitUntouched : Prop :=
  ∀ (i : Instr) (s t : State) (r : Response), exec i s = .next t → t.response = some r →
    r.st ≠ .ok →
    r.q0 = none ∧ r.q1 = none ∧ (r.berr.isSome ↔ r.st = .busError) ∧ SameUnit s t

/-- Which outcome each operation can have (R170): the column "raised by". -/
def Obligations.OutcomesOfEachOperation : Prop :=
  ∀ (i : Instr) (s t : State), exec i s = .next t →
    ∃ r, t.response = some r ∧
      (r.st = .ok
        ∨ (r.st = .busError ∧ ∃ a b, i = .calLoad a b)
        ∨ (r.st = .invalidCalibration ∧ ∃ a b, i = .compP a b)
        ∨ (r.st = .tempDivZero ∧ ∃ a b, i = .compT a b)
        ∨ (r.st = .rejected ∧ ∃ a b, i = .setSlp a b))

/-- The status codes (R170); the values 0x6 to 0xE are never produced. -/
def Obligations.StatusCodes : Prop :=
  Status.code .ok = 0x0 ∧ Status.code .busError = 0x1 ∧ Status.code .invalidDeviceId = 0x2
    ∧ Status.code .invalidCalibration = 0x3 ∧ Status.code .tempDivZero = 0x4
    ∧ Status.code .rejected = 0x5 ∧ Status.code .illegalOp = 0xF
    ∧ ∀ st : Status, (Status.code st).toNat ≤ 5 ∨ (Status.code st).toNat = 15

/-! ## Reset and invariants -/

/-- After reset every register has the value of R22, for every configuration; there is no bus
activity. That `State.reset` has the parameters at the defaults of R7 is the model's choice (DESIGN
CHOICE, log entry 6). -/
def Obligations.ResetValues : Prop :=
  (∀ cfg : Config,
    (State.new cfg).cal = ⟨0, 0, 0, 0, 0, 0, 0, 0, 0, 0, 0⟩ ∧ (State.new cfg).calv = false
    ∧ (State.new cfg).oss = cfg.ossInit ∧ (State.new cfg).slp = cfg.slpInit
    ∧ (State.new cfg).cfg.busAddr = cfg.busAddr
    ∧ (State.new cfg).request = none ∧ (State.new cfg).response = none
    ∧ (State.new cfg).busLog = [])
  ∧ State.reset = State.new ⟨0x77, 0, 101325, .bytewise⟩

/-- Every step keeps the unit sound: a response carries results only when `OK` and `BERR` exactly with
`BUS_ERROR`, the unit never answers `INVALID_DEVICE_ID`, and the coefficients are zero as long as
`CALV` is 0. -/
def Obligations.StepKeepsTheUnitSound : Prop :=
  ∀ s t : State, UnitSound s → step s = .next t → UnitSound t

/-- The unit is sound after reset, for every configuration. -/
def Obligations.ResetIsSound : Prop := ∀ cfg : Config, UnitSound (State.new cfg)

/-- The host never waits in vain: the invariant is kept by every step, and under it no step faults. The
host agent is the model's choice (log entry 7), and so is that `COMP.T` with a zero divisor, which the
spec says a model treats as a fault, is a next state (log entry 1). -/
def Obligations.HostIsNeverBlocked : Prop :=
  ∀ s : State, HostServed s →
    (∀ f, step s ≠ .fault f) ∧ ∀ t, step s = .next t → HostServed t

/-- An accepted host program never stops: every step from an accepted state answers a next state, and
that state is accepted. This rests on choices of the model: `TEMP_DIV_ZERO` is a next state and not the
fault of R102 (log entry 1), the host agent (log entry 7), the check of a program (log entry 14), and that
assembling bytes no read gave does not stop (log entry 24). -/
def Obligations.AcceptedProgramsNeverStop : Prop :=
  ∀ s : State, Accepted s → ∃ t, step s = .next t ∧ Accepted t

/-- Every pseudo-operation of the source's facade is accepted. -/
def Obligations.FacadeCallsAreAccepted : Prop :=
  ∀ c : HostCall, (∀ body, c ≠ .statements body) → c.accepted = true

/-! ## Host sequences -/

/-- `NEW(config)`: the unit's state is that of reset with `BUS_ADDR`, `OSS_INIT` and `SLP_INIT` taken
from `config`, its fetch mode the same as before, and there is no bus activity (R151, R200). -/
def Obligations.NewConstructsTheUnit : Prop :=
  ∀ (s : State) (cfg : Config) (cs : List HostCall), Begins (.new cfg) cs s →
    ∃ t, step s = .next t ∧ Ended (.ok none) cs t
      ∧ SameUnit (State.new { cfg with fetchMode := s.cfg.fetchMode }) t
      ∧ t.response = none ∧ t.busLog = s.busLog ∧ t.answers = s.answers

/-- `TEST_CONN` (R152): `OK` exactly for the byte 0x55, `INVALID_DEVICE_ID` for any other, and the
failure of the read; it reads `ID` once and changes no state of the unit. -/
def Obligations.TestConnOutcomes : Prop :=
  ∀ (s : State) (cs : List HostCall) (rest : List BusAnswer), Begins .testConn cs s →
    (∀ id : Byte, s.answers = .ok [id] :: rest →
      ∃ t, Host.Core.run core 3 s = .next t ∧ SameUnit s t ∧ t.answers = rest
        ∧ t.busLog = s.busLog ++ [.read s.cfg.busAddr 0xD0 1 true]
        ∧ Ended (if id = 0x55 then .ok none else .err .invalidDeviceId none) cs t)
    ∧ (∀ e : BusErr, s.answers = .err e :: rest →
      ∃ t, Host.Core.run core 2 s = .next t ∧ SameUnit s t ∧ t.answers = rest
        ∧ t.busLog = s.busLog ++ [.read s.cfg.busAddr 0xD0 1 false]
        ∧ Ended (.err .busError (some e)) cs t)

/-- `READ_T` (R154, R156) when nothing fails: the statements in order on the bus, the temperature of
the two bytes read, and no state of the unit changed. -/
def Obligations.ReadTemperatureSequence : Prop :=
  ∀ (s : State) (cs : List HostCall) (x : List Byte) (msb lsb : Byte) (rest : List BusAnswer),
    Begins .readT cs s → s.answers = .ok x :: .ok [msb, lsb] :: rest →
    tDen s.cal (utOf msb lsb) ≠ 0 →
    ∃ t, Host.Core.run core 11 s = .next t
      ∧ Ended (.ok (some (celsius (tT10 s.cal (utOf msb lsb))))) cs t ∧ SameUnit s t
      ∧ t.answers = rest ∧ t.busLog = s.busLog ++ eventsAcqT s.cfg.busAddr

/-- `READ_P` (R154, R155, R157) when nothing fails: both acquisitions, then both compensations, with
the `b5` of this read. -/
def Obligations.ReadPressureSequence : Prop :=
  ∀ (s : State) (cs : List HostCall) (x y : List Byte) (msb lsb pm pl px : Byte)
    (rest : List BusAnswer) (p : Int),
    Begins .readP cs s →
    s.answers = .ok x :: .ok [msb, lsb] :: .ok y :: .ok [pm, pl, px] :: rest →
    tDen s.cal (utOf msb lsb) ≠ 0 →
    pressureRule s.cal s.oss.toNat (upOf s.oss pm pl px) (tB5 s.cal (utOf msb lsb)) = some p →
    ∃ t, Host.Core.run core 20 s = .next t ∧ Ended (.ok (some (bits p))) cs t ∧ SameUnit s t
      ∧ t.answers = rest
      ∧ t.busLog = s.busLog ++ (eventsAcqT s.cfg.busAddr ++ eventsAcqP s.cfg.busAddr s.oss)

/-- `READ_ALT` (R158) when nothing fails: `READ_P`, then the altitude of its pressure against the
configured reference; the bus traffic is that of `READ_P`. For a pressure of zero the altitude is some
value, of which nothing is said (R135). The number of steps, the NaN patterns, and what the altitude is
for a pressure of zero and for a reference of zero or less are the model's choice (log entries 7, 9 and
10). -/
def Obligations.ReadAltitudeSequence : Prop :=
  ∀ (s : State) (cs : List HostCall) (x y : List Byte) (msb lsb pm pl px : Byte)
    (rest : List BusAnswer) (p : Int),
    Begins .readAlt cs s →
    s.answers = .ok x :: .ok [msb, lsb] :: .ok y :: .ok [pm, pl, px] :: rest →
    tDen s.cal (utOf msb lsb) ≠ 0 →
    pressureRule s.cal s.oss.toNat (upOf s.oss pm pl px) (tB5 s.cal (utOf msb lsb)) = some p →
    ∃ (t : State) (alt : F32), Host.Core.run core 23 s = .next t ∧ SameUnit s t ∧ t.answers = rest
      ∧ Ended (.ok (some alt)) cs t
      ∧ (p ≠ 0 → ∃ n1 n2 n3 : F32,
        F32.isNan n1 = true ∧ F32.isNan n2 = true ∧ F32.isNan n3 = true
        ∧ alt = altitude n1 n2 n3 (bits p) s.slp)
      ∧ t.busLog = s.busLog ++ (eventsAcqT s.cfg.busAddr ++ eventsAcqP s.cfg.busAddr s.oss)

/-- A pressure read before initialisation (R157, R204): with the zero coefficients of reset both
conversions are commanded, waited for and read, and the sequence ends with `TEMP_DIV_ZERO`; `COMP.P` is
not issued. That the machine goes on to that end, and in how many steps, is the model's choice (log
entries 1 and 7). -/
def Obligations.ReadBeforeInitFailsInCompensation : Prop :=
  ∀ (s : State) (cs : List HostCall) (x y : List Byte) (msb lsb pm pl px : Byte)
    (rest : List BusAnswer),
    Begins .readP cs s → s.cal = Cal.zero →
    s.answers = .ok x :: .ok [msb, lsb] :: .ok y :: .ok [pm, pl, px] :: rest →
    ∃ t, Host.Core.run core 16 s = .next t ∧ Ended (.err .tempDivZero none) cs t ∧ SameUnit s t
      ∧ t.answers = rest
      ∧ t.busLog = s.busLog ++ (eventsAcqT s.cfg.busAddr ++ eventsAcqP s.cfg.busAddr s.oss)

/-- `SOFT_RESET` (R159): one write of 0xB6 to 0xE0, its failure surfaced, and no state of the unit
changed. -/
def Obligations.SoftResetLeavesTheUnitAlone : Prop :=
  ∀ (s : State) (cs : List HostCall) (rest : List BusAnswer), Begins .softReset cs s →
    (∀ x, s.answers = .ok x :: rest →
      ∃ t, Host.Core.run core 3 s = .next t ∧ Ended (.ok none) cs t ∧ SameUnit s t
        ∧ t.busLog = s.busLog ++ [.write s.cfg.busAddr 0xE0 [0xB6] true])
    ∧ (∀ e, s.answers = .err e :: rest →
      ∃ t, Host.Core.run core 2 s = .next t ∧ Ended (.err .busError (some e)) cs t ∧ SameUnit s t
        ∧ t.busLog = s.busLog ++ [.write s.cfg.busAddr 0xE0 [0xB6] false])

/-- A bus failure or a non-OK response ends a sequence at once (R150, R180): whatever statements are
left, none is executed, the outcome is propagated, and no state of the unit is changed. The failing
statement is a control or reset write the spec describes, the control write of a pressure conversion at
the level `OSS`, or a read; each leaves the record of its one failed transaction. One step is the model's
choice (DESIGN CHOICE, log entry 7), and so is which writes are described (log entry 14). -/
def Obligations.FailureEndsTheSequence : Prop :=
  (∀ (s : State) (st : Stmt) (todo : List Stmt) (rest : List BusAnswer) (e : BusErr) (ev : BusEvent),
    s.request = none → s.host.awaiting = none → s.host.todo = st :: todo →
    s.answers = .err e :: rest →
    ((∃ addr byte, st = .busWr addr byte ∧ describedWrite addr byte = true
        ∧ ev = .write s.cfg.busAddr addr [byte] false)
      ∨ (st = .busWrPressure ∧ ev = .write s.cfg.busAddr 0xF4 [controlPressure s.oss] false)
      ∨ ∃ addr n, st = .busRd addr n ∧ 0 < n ∧ ev = .read s.cfg.busAddr addr n false) →
    ∃ t, step s = .next t ∧ Ended (.err .busError (some e)) s.host.calls t ∧ SameUnit s t
      ∧ t.answers = rest ∧ t.busLog = s.busLog ++ [ev])
  ∧ ∀ (s : State) (src : ReqSource) (r : Response), s.request = none →
    s.host.awaiting = some src → s.response = some r → r.st ≠ .ok →
    ∃ t, step s = .next t ∧ Ended (.err r.st r.berr) s.host.calls t ∧ SameUnit s t
      ∧ t.busLog = s.busLog ∧ t.answers = s.answers

/-- A second request presented while one is pending has no meaning: it is refused (R47, R184); a
request presented to a free unit is accepted and the earlier response is forgotten (R19). -/
def Obligations.SecondRequestIsRefused : Prop :=
  ∀ (w : Request) (s : State),
    (s.request ≠ none → present w s = .refused .requestInFlight)
    ∧ (s.request = none → present w s = .next { s with request := some w, response := none })

/-- The control bytes (R56): for a pressure the concatenation of the level and `11 0100`, each starting
its own conversion. -/
def Obligations.ControlBytes : Prop :=
  controlTemperature = 0x2E
    ∧ (∀ oss : BitVec 2, controlPressure oss = oss ++ 0b110100#6)
    ∧ [0, 1, 2, 3].map controlPressure = [0x34, 0x74, 0xB4, 0xF4]

/-- The machine respects the hazards of R211, R212 and R215, whatever the environment answers: every
step of the host and of the unit keeps the record of bus events free of violations, as long as every
sequence passes the check of its statements; every pseudo-operation of the facade passes it; and so do
a unit just constructed and a host with such sequences to perform. The check of a record and the check of
the statements are the model's (DESIGN CHOICE, log entry 13). -/
def Obligations.ReadsRespectTheHazards : Prop :=
  (∀ s t : State, HazardSafe s → step s = .next t → HazardSafe t)
  ∧ (∀ (s : State) (dev : BitVec 7), HazardSafe s → hazardFree dev s.busLog = true)
  ∧ (∀ c : HostCall, (∀ body, c ≠ .statements body) → c.hazardChecked = true)
  ∧ ∀ (cfg : Config) (calls : List HostCall), (∀ c ∈ calls, c.hazardChecked = true) →
    HazardSafe { State.new cfg with host := { HostState.idle with calls := calls } }
end

