-- ==== Sys2Proof/Laws/Arith.lean ====
section
/-! SUPPORT. The integer laws as statements about the integers the patterns stand for
(spec/40_arithmetic_laws.md R60 to R66, R70). -/

namespace Sys2Proof.Machine

/-- The value of a wrapped `i32` addition (R60). -/
theorem toInt_add_wrap (x y : Word) : (x + y).toInt = (x.toInt + y.toInt).bmod (2 ^ 32) :=
  BitVec.toInt_add x y

/-- The value of a wrapped `i32` subtraction (R60). -/
theorem toInt_sub_wrap (x y : Word) : (x - y).toInt = (x.toInt - y.toInt).bmod (2 ^ 32) := by
  simp [BitVec.toInt_sub]

/-- The value of a wrapped `i32` multiplication (R60). -/
theorem toInt_mul_wrap (x y : Word) : (x * y).toInt = (x.toInt * y.toInt).bmod (2 ^ 32) :=
  BitVec.toInt_mul x y

/-- The arithmetic right shift is the floor of the quotient by the power of two (R62). -/
theorem toInt_asr (x : Word) (n : Nat) : (asr x n).toInt = x.toInt / 2 ^ n := by
  simp [asr, BitVec.toInt_sshiftRight, Int.shiftRight_eq_div_pow]

/-- The logical right shift is the floor of the quotient by the power of two (R62). -/
theorem toNat_lsr (x : Word) (n : Nat) : (lsr x n).toNat = x.toNat / 2 ^ n := by
  simp [lsr, Nat.shiftRight_eq_div_pow]

/-- Unsigned division is the floor of the quotient (R65). -/
theorem toNat_udiv (x y : Word) : (udiv x y).toNat = x.toNat / y.toNat := by
  simp [udiv]

/-- A sign extended coefficient keeps its signed value (R11). -/
theorem toInt_sext16 (h : Half) : (sext16 h).toInt = h.toInt := by
  simp [sext16, BitVec.toInt_signExtend]
  exact BitVec.toInt_bmod_cancel h

/-- A zero extended coefficient keeps its unsigned value (R11). -/
theorem toNat_zext16 (h : Half) : (zext16 h).toNat = h.toNat := by
  simp only [zext16, BitVec.toNat_setWidth]
  omega

/-- A zero extended byte keeps its value (R82). -/
theorem toNat_zext8 (b : Byte) : (zext8 b).toNat = b.toNat := by
  simp only [zext8, BitVec.toNat_setWidth]
  omega

/-- The value of a left shift within 32 bits (R63). -/
theorem toInt_shl (x : Word) (n : Nat) : (shl x n).toInt = (x.toInt * 2 ^ n).bmod (2 ^ 32) := by
  have e : shl x n = BitVec.ofInt 32 (x.toInt * 2 ^ n) := by
    have h : ((2 : Int) ^ n) = ((2 ^ n : Nat) : Int) := by push_cast; rfl
    simp only [shl]
    rw [BitVec.ofInt_mul, BitVec.ofInt_toInt, BitVec.shiftLeft_eq_mul_twoPow, h, BitVec.ofInt_natCast]
    congr 1
    apply BitVec.eq_of_toNat_eq
    simp
  rw [e, BitVec.toInt_ofInt]

/-- The value of a signed division truncating toward zero (R64); only `-2^31 /t -1` wraps. -/
theorem toInt_tdiv (x y : Word) : (tdiv x y).toInt = (x.toInt.tdiv y.toInt).bmod (2 ^ 32) := by
  simp [tdiv, BitVec.toInt_sdiv]

/-- A signed coefficient's value in a formula (R10, R11). -/
theorem toInt_value_signed (c : Cal) (k : Coef) (h : k.signed = true) :
    (c.value k).toInt = (c.raw k).toInt := by
  simp [Cal.value, h, toInt_sext16]

/-- An unsigned coefficient's value in a formula (R10, R11). -/
theorem toInt_value_unsigned (c : Cal) (k : Coef) (h : k.signed = false) :
    (c.value k).toInt = ((c.raw k).toNat : Int) := by
  have hb := (c.raw k).isLt
  simp only [Cal.value, h, Bool.false_eq_true, if_false]
  rw [BitVec.toInt_eq_toNat_of_lt (by rw [toNat_zext16]; omega), toNat_zext16]

/-- The widening to 64 bits changes no value where the doubled dividend fits in 32 bits (R66). -/
theorem toNat_doubledQuotient64 (a b : Word) (h : a.toNat < 0x80000000) :
    (doubledQuotient64 a b).toNat = a.toNat * 2 / b.toNat := by
  have ha : a.toNat % 2 ^ 64 = a.toNat := by omega
  have hb : b.toNat % 2 ^ 64 = b.toNat := by have := b.isLt; omega
  simp only [doubledQuotient64, BitVec.toNat_setWidth, BitVec.toNat_udiv, BitVec.toNat_mul, ha, hb,
    BitVec.toNat_ofNat]
  rw [show a.toNat * (2 % 2 ^ 64) % 2 ^ 64 = a.toNat * 2 by omega]
  exact Nat.mod_eq_of_lt (Nat.lt_of_le_of_lt (Nat.div_le_self _ _) (by omega))

/-- The checked subtraction answers exactly when it does not go below zero, and then the difference
(R70). -/
theorem checkedSubU32_eq_some {a b d : Word} :
    checkedSubU32 a b = some d ↔ b.toNat ≤ a.toNat ∧ d = a - b := by
  unfold checkedSubU32
  split <;> simp [eq_comm] <;> omega

/-- The checked product of a value with itself answers exactly when the square fits (R70, R123). -/
theorem checkedMulS32_self_eq_some {x y : Word} :
    checkedMulS32 x x = some y ↔
      x.toInt * x.toInt ≤ 2147483647 ∧ y = BitVec.ofInt 32 (x.toInt * x.toInt) := by
  have h : 0 ≤ x.toInt * x.toInt := mul_self_nonneg _
  unfold checkedMulS32
  split <;> simp [eq_comm] <;> omega

end Sys2Proof.Machine
end

