-- ==== Sys2Proof/Laws/Assembly.lean ====
section
/-! SUPPORT. The raw sample assemblers as statements about integers
(spec/42_raw_sample_assembly.md R90, R91). -/

namespace Sys2Proof.Machine

/-- The two bytes as a big-endian integer (R90). -/
theorem toNat_rawTemperature (msb lsb : Byte) :
    (rawTemperature msb lsb).toNat = 256 * msb.toNat + lsb.toNat := by
  have hm := msb.isLt
  have hl := lsb.isLt
  simp only [rawTemperature, shl, BitVec.toNat_or, BitVec.toNat_shiftLeft, toNat_zext8]
  rw [Nat.shiftLeft_eq, Nat.mod_eq_of_lt (by omega), Nat.mul_comm,
    ← Nat.two_pow_add_eq_or_of_lt (by simpa using hl)]

/-- The three bytes as a big-endian integer with a leading zero byte (R91). -/
theorem toNat_rawPressureBytes (msb lsb xlsb : Byte) :
    (rawPressureBytes msb lsb xlsb).toNat = 65536 * msb.toNat + 256 * lsb.toNat + xlsb.toNat := by
  have hm := msb.isLt
  have hl := lsb.isLt
  have hx := xlsb.isLt
  simp only [rawPressureBytes, shl, BitVec.toNat_or, BitVec.toNat_shiftLeft, toNat_zext8]
  rw [Nat.shiftLeft_eq, Nat.mod_eq_of_lt (by omega), Nat.shiftLeft_eq, Nat.mod_eq_of_lt (by omega),
    Nat.mul_comm, Nat.mul_comm lsb.toNat, Nat.or_assoc,
    ← Nat.two_pow_add_eq_or_of_lt (i := 8) (by simpa using hx),
    ← Nat.two_pow_add_eq_or_of_lt (by omega)]
  omega

/-- A raw temperature is no negative number (R90). -/
theorem toInt_rawTemperature (msb lsb : Byte) :
    (rawTemperature msb lsb).toInt = ((256 * msb.toNat + lsb.toNat : Nat) : Int) := by
  have hm := msb.isLt
  have hl := lsb.isLt
  rw [BitVec.toInt_eq_toNat_of_lt (by rw [toNat_rawTemperature]; omega), toNat_rawTemperature]

/-- The shift of the raw pressure is the floor of the quotient by `2^(8 - OSS)` (R91). -/
theorem toInt_rawPressure (oss : BitVec 2) (msb lsb xlsb : Byte) :
    (rawPressure oss msb lsb xlsb).toInt
      = ((65536 * msb.toNat + 256 * lsb.toNat + xlsb.toNat : Nat) : Int) / 2 ^ assemblyShift oss := by
  have hm := msb.isLt
  have hl := lsb.isLt
  have hx := xlsb.isLt
  rw [rawPressure, toInt_asr,
    BitVec.toInt_eq_toNat_of_lt (by rw [toNat_rawPressureBytes]; omega), toNat_rawPressureBytes]

end Sys2Proof.Machine
end

