-- ==== Sys2Proof/Laws/State.lean ====
section
/-! SUPPORT. What each update of the state leaves in each field, one lemma for each field of each update,
so that no later proof unfolds an update. -/

namespace Sys2Proof.Machine

variable (s : State)

@[simp] theorem State.setResponse_cfg (r : Option Response) : (s.setResponse r).cfg = s.cfg := rfl
@[simp] theorem State.setResponse_cal (r : Option Response) : (s.setResponse r).cal = s.cal := rfl
@[simp] theorem State.setResponse_oss (r : Option Response) : (s.setResponse r).oss = s.oss := rfl
@[simp] theorem State.setResponse_slp (r : Option Response) : (s.setResponse r).slp = s.slp := rfl
@[simp] theorem State.setResponse_calv (r : Option Response) : (s.setResponse r).calv = s.calv := rfl
@[simp] theorem State.setResponse_request (r : Option Response) : (s.setResponse r).request = s.request := rfl
@[simp] theorem State.setResponse_response (r : Option Response) : (s.setResponse r).response = r := rfl
@[simp] theorem State.setResponse_answers (r : Option Response) : (s.setResponse r).answers = s.answers := rfl
@[simp] theorem State.setResponse_draws (r : Option Response) : (s.setResponse r).draws = s.draws := rfl
@[simp] theorem State.setResponse_busLog (r : Option Response) : (s.setResponse r).busLog = s.busLog := rfl
@[simp] theorem State.setResponse_host (r : Option Response) : (s.setResponse r).host = s.host := rfl

@[simp] theorem State.setRequest_cfg (r : Option Request) : (s.setRequest r).cfg = s.cfg := rfl
@[simp] theorem State.setRequest_cal (r : Option Request) : (s.setRequest r).cal = s.cal := rfl
@[simp] theorem State.setRequest_oss (r : Option Request) : (s.setRequest r).oss = s.oss := rfl
@[simp] theorem State.setRequest_slp (r : Option Request) : (s.setRequest r).slp = s.slp := rfl
@[simp] theorem State.setRequest_calv (r : Option Request) : (s.setRequest r).calv = s.calv := rfl
@[simp] theorem State.setRequest_request (r : Option Request) : (s.setRequest r).request = r := rfl
@[simp] theorem State.setRequest_response (r : Option Request) : (s.setRequest r).response = s.response := rfl
@[simp] theorem State.setRequest_answers (r : Option Request) : (s.setRequest r).answers = s.answers := rfl
@[simp] theorem State.setRequest_draws (r : Option Request) : (s.setRequest r).draws = s.draws := rfl
@[simp] theorem State.setRequest_busLog (r : Option Request) : (s.setRequest r).busLog = s.busLog := rfl
@[simp] theorem State.setRequest_host (r : Option Request) : (s.setRequest r).host = s.host := rfl

@[simp] theorem State.commitCal_cfg (c : Cal) : (s.commitCal c).cfg = s.cfg := rfl
@[simp] theorem State.commitCal_cal (c : Cal) : (s.commitCal c).cal = c := rfl
@[simp] theorem State.commitCal_oss (c : Cal) : (s.commitCal c).oss = s.oss := rfl
@[simp] theorem State.commitCal_slp (c : Cal) : (s.commitCal c).slp = s.slp := rfl
@[simp] theorem State.commitCal_calv (c : Cal) : (s.commitCal c).calv = true := rfl
@[simp] theorem State.commitCal_request (c : Cal) : (s.commitCal c).request = s.request := rfl
@[simp] theorem State.commitCal_response (c : Cal) : (s.commitCal c).response = s.response := rfl
@[simp] theorem State.commitCal_answers (c : Cal) : (s.commitCal c).answers = s.answers := rfl
@[simp] theorem State.commitCal_draws (c : Cal) : (s.commitCal c).draws = s.draws := rfl
@[simp] theorem State.commitCal_busLog (c : Cal) : (s.commitCal c).busLog = s.busLog := rfl
@[simp] theorem State.commitCal_host (c : Cal) : (s.commitCal c).host = s.host := rfl

@[simp] theorem State.setOss_cfg (l : BitVec 2) : (s.setOss l).cfg = s.cfg := rfl
@[simp] theorem State.setOss_cal (l : BitVec 2) : (s.setOss l).cal = s.cal := rfl
@[simp] theorem State.setOss_oss (l : BitVec 2) : (s.setOss l).oss = l := rfl
@[simp] theorem State.setOss_slp (l : BitVec 2) : (s.setOss l).slp = s.slp := rfl
@[simp] theorem State.setOss_calv (l : BitVec 2) : (s.setOss l).calv = s.calv := rfl
@[simp] theorem State.setOss_request (l : BitVec 2) : (s.setOss l).request = s.request := rfl
@[simp] theorem State.setOss_response (l : BitVec 2) : (s.setOss l).response = s.response := rfl
@[simp] theorem State.setOss_answers (l : BitVec 2) : (s.setOss l).answers = s.answers := rfl
@[simp] theorem State.setOss_draws (l : BitVec 2) : (s.setOss l).draws = s.draws := rfl
@[simp] theorem State.setOss_busLog (l : BitVec 2) : (s.setOss l).busLog = s.busLog := rfl
@[simp] theorem State.setOss_host (l : BitVec 2) : (s.setOss l).host = s.host := rfl

@[simp] theorem State.setSlp_cfg (p : Word) : (s.setSlp p).cfg = s.cfg := rfl
@[simp] theorem State.setSlp_cal (p : Word) : (s.setSlp p).cal = s.cal := rfl
@[simp] theorem State.setSlp_oss (p : Word) : (s.setSlp p).oss = s.oss := rfl
@[simp] theorem State.setSlp_slp (p : Word) : (s.setSlp p).slp = p := rfl
@[simp] theorem State.setSlp_calv (p : Word) : (s.setSlp p).calv = s.calv := rfl
@[simp] theorem State.setSlp_request (p : Word) : (s.setSlp p).request = s.request := rfl
@[simp] theorem State.setSlp_response (p : Word) : (s.setSlp p).response = s.response := rfl
@[simp] theorem State.setSlp_answers (p : Word) : (s.setSlp p).answers = s.answers := rfl
@[simp] theorem State.setSlp_draws (p : Word) : (s.setSlp p).draws = s.draws := rfl
@[simp] theorem State.setSlp_busLog (p : Word) : (s.setSlp p).busLog = s.busLog := rfl
@[simp] theorem State.setSlp_host (p : Word) : (s.setSlp p).host = s.host := rfl

@[simp] theorem State.draw_cfg (n : Nat) : (s.draw n).cfg = s.cfg := rfl
@[simp] theorem State.draw_cal (n : Nat) : (s.draw n).cal = s.cal := rfl
@[simp] theorem State.draw_oss (n : Nat) : (s.draw n).oss = s.oss := rfl
@[simp] theorem State.draw_slp (n : Nat) : (s.draw n).slp = s.slp := rfl
@[simp] theorem State.draw_calv (n : Nat) : (s.draw n).calv = s.calv := rfl
@[simp] theorem State.draw_request (n : Nat) : (s.draw n).request = s.request := rfl
@[simp] theorem State.draw_response (n : Nat) : (s.draw n).response = s.response := rfl
@[simp] theorem State.draw_answers (n : Nat) : (s.draw n).answers = s.answers := rfl
@[simp] theorem State.draw_draws (n : Nat) : (s.draw n).draws = s.draws + n := rfl
@[simp] theorem State.draw_busLog (n : Nat) : (s.draw n).busLog = s.busLog := rfl
@[simp] theorem State.draw_host (n : Nat) : (s.draw n).host = s.host := rfl

@[simp] theorem State.setAnswers_cfg (as : List BusAnswer) : (s.setAnswers as).cfg = s.cfg := rfl
@[simp] theorem State.setAnswers_cal (as : List BusAnswer) : (s.setAnswers as).cal = s.cal := rfl
@[simp] theorem State.setAnswers_oss (as : List BusAnswer) : (s.setAnswers as).oss = s.oss := rfl
@[simp] theorem State.setAnswers_slp (as : List BusAnswer) : (s.setAnswers as).slp = s.slp := rfl
@[simp] theorem State.setAnswers_calv (as : List BusAnswer) : (s.setAnswers as).calv = s.calv := rfl
@[simp] theorem State.setAnswers_request (as : List BusAnswer) : (s.setAnswers as).request = s.request := rfl
@[simp] theorem State.setAnswers_response (as : List BusAnswer) : (s.setAnswers as).response = s.response := rfl
@[simp] theorem State.setAnswers_answers (as : List BusAnswer) : (s.setAnswers as).answers = as := rfl
@[simp] theorem State.setAnswers_draws (as : List BusAnswer) : (s.setAnswers as).draws = s.draws := rfl
@[simp] theorem State.setAnswers_busLog (as : List BusAnswer) : (s.setAnswers as).busLog = s.busLog := rfl
@[simp] theorem State.setAnswers_host (as : List BusAnswer) : (s.setAnswers as).host = s.host := rfl

@[simp] theorem State.logEvent_cfg (e : BusEvent) : (s.logEvent e).cfg = s.cfg := rfl
@[simp] theorem State.logEvent_cal (e : BusEvent) : (s.logEvent e).cal = s.cal := rfl
@[simp] theorem State.logEvent_oss (e : BusEvent) : (s.logEvent e).oss = s.oss := rfl
@[simp] theorem State.logEvent_slp (e : BusEvent) : (s.logEvent e).slp = s.slp := rfl
@[simp] theorem State.logEvent_calv (e : BusEvent) : (s.logEvent e).calv = s.calv := rfl
@[simp] theorem State.logEvent_request (e : BusEvent) : (s.logEvent e).request = s.request := rfl
@[simp] theorem State.logEvent_response (e : BusEvent) : (s.logEvent e).response = s.response := rfl
@[simp] theorem State.logEvent_answers (e : BusEvent) : (s.logEvent e).answers = s.answers := rfl
@[simp] theorem State.logEvent_draws (e : BusEvent) : (s.logEvent e).draws = s.draws := rfl
@[simp] theorem State.logEvent_busLog (e : BusEvent) : (s.logEvent e).busLog = s.busLog ++ [e] := rfl
@[simp] theorem State.logEvent_host (e : BusEvent) : (s.logEvent e).host = s.host := rfl

@[simp] theorem State.setHost_cfg (h : HostState) : (s.setHost h).cfg = s.cfg := rfl
@[simp] theorem State.setHost_cal (h : HostState) : (s.setHost h).cal = s.cal := rfl
@[simp] theorem State.setHost_oss (h : HostState) : (s.setHost h).oss = s.oss := rfl
@[simp] theorem State.setHost_slp (h : HostState) : (s.setHost h).slp = s.slp := rfl
@[simp] theorem State.setHost_calv (h : HostState) : (s.setHost h).calv = s.calv := rfl
@[simp] theorem State.setHost_request (h : HostState) : (s.setHost h).request = s.request := rfl
@[simp] theorem State.setHost_response (h : HostState) : (s.setHost h).response = s.response := rfl
@[simp] theorem State.setHost_answers (h : HostState) : (s.setHost h).answers = s.answers := rfl
@[simp] theorem State.setHost_draws (h : HostState) : (s.setHost h).draws = s.draws := rfl
@[simp] theorem State.setHost_busLog (h : HostState) : (s.setHost h).busLog = s.busLog := rfl
@[simp] theorem State.setHost_host (h : HostState) : (s.setHost h).host = h := rfl

@[simp] theorem State.construct_cfg (c : Config) : (s.construct c).cfg = s.constructedCfg c := rfl
@[simp] theorem State.construct_cal (c : Config) : (s.construct c).cal = Cal.zero := rfl
@[simp] theorem State.construct_oss (c : Config) : (s.construct c).oss = c.ossInit := rfl
@[simp] theorem State.construct_slp (c : Config) : (s.construct c).slp = c.slpInit := rfl
@[simp] theorem State.construct_calv (c : Config) : (s.construct c).calv = false := rfl
@[simp] theorem State.construct_request (c : Config) : (s.construct c).request = none := rfl
@[simp] theorem State.construct_response (c : Config) : (s.construct c).response = none := rfl
@[simp] theorem State.construct_answers (c : Config) : (s.construct c).answers = s.answers := rfl
@[simp] theorem State.construct_draws (c : Config) : (s.construct c).draws = s.draws := rfl
@[simp] theorem State.construct_busLog (c : Config) : (s.construct c).busLog = s.busLog := rfl
@[simp] theorem State.construct_host (c : Config) : (s.construct c).host = s.host := rfl

/-! What a state holds right after reset (R22). -/

@[simp] theorem State.new_cfg (c : Config) : (State.new c).cfg = c := rfl
@[simp] theorem State.new_cal (c : Config) : (State.new c).cal = Cal.zero := rfl
@[simp] theorem State.new_oss (c : Config) : (State.new c).oss = c.ossInit := rfl
@[simp] theorem State.new_slp (c : Config) : (State.new c).slp = c.slpInit := rfl
@[simp] theorem State.new_calv (c : Config) : (State.new c).calv = false := rfl
@[simp] theorem State.new_request (c : Config) : (State.new c).request = none := rfl
@[simp] theorem State.new_response (c : Config) : (State.new c).response = none := rfl
@[simp] theorem State.new_answers (c : Config) : (State.new c).answers = [] := rfl
@[simp] theorem State.new_draws (c : Config) : (State.new c).draws = 0 := rfl
@[simp] theorem State.new_busLog (c : Config) : (State.new c).busLog = [] := rfl
@[simp] theorem State.new_host (c : Config) : (State.new c).host = HostState.idle := rfl

end Sys2Proof.Machine
end

