-- ==== Sys2Proof/Laws/Ops.lean ====
section
/-! SUPPORT. What each shared operation over the state can do, said once: answering, raising an outcome,
a bus transaction, and presenting a request. -/

namespace Sys2Proof.Machine

/-- Answering `OK` changes the response and nothing else (R51). -/
theorem respondOk_eq (q0 q1 : Option Word) (s : State) :
    respondOk q0 q1 s = { s with response := some ⟨.ok, q0, q1, none⟩ } := rfl

/-- Raising an outcome changes the response and nothing else (R176). -/
theorem raise_eq (st : Status) (info : Option BusErr) (s : State) :
    raise st info s = { s with response := some ⟨st, none, none, info⟩ } := rfl

/-- A transaction changes the answers left, the count of free values and the record, and nothing
else (R33, R34). -/
theorem transact_eq (e : BusEvent) (s : State) :
    transact e s =
      { s with answers := s.answers.tail, draws := s.draws + 1, busLog := s.busLog ++ [e] } := rfl

/-- The answer to the next transaction is the next one scripted (R40). -/
theorem nextAnswer_scripted {s : State} {a : BusAnswer} {as : List BusAnswer}
    (h : s.answers = a :: as) : nextAnswer s = a := by
  simp [nextAnswer, h]

/-- A successful read returns exactly the bytes asked for (R33). -/
@[simp] theorem answerBytes_length (bytes : List Byte) (k n : Nat) :
    (answerBytes bytes k n).length = n := by
  simp [answerBytes]

/-- The bytes a read returns are the scripted ones where they are scripted (R33, R35). -/
theorem answerBytes_getElem? {bytes : List Byte} {k n i : Nat} (hi : i < n)
    (hb : i < bytes.length) : (answerBytes bytes k n)[i]? = bytes[i]? := by
  simp [answerBytes, hi, hb]

/-- An answer scripted at its full length is returned as it is (R33, R35). -/
theorem answerBytes_self (bytes : List Byte) (k : Nat) :
    answerBytes bytes k bytes.length = bytes := by
  refine List.ext_getElem (by simp) fun i hi _ => ?_
  have hb : i < bytes.length := by simpa using hi
  simp [answerBytes, hb]

/-- A read that the environment lets succeed (R33). -/
theorem memRead_scripted_ok {s : State} {bytes : List Byte} {as : List BusAnswer}
    (h : s.answers = .ok bytes :: as) (addr : Byte) (n : Nat) :
    memRead addr n s = 
      (.ok (answerBytes bytes s.draws n), transact (.read s.cfg.busAddr addr n true) s) := by
  simp [memRead, readOutcome, nextAnswer_scripted h, answerOk]

/-- A read that the environment lets fail (R33, R171). -/
theorem memRead_scripted_err {s : State} {e : BusErr} {as : List BusAnswer}
    (h : s.answers = .err e :: as) (addr : Byte) (n : Nat) :
    memRead addr n s = (.error e, transact (.read s.cfg.busAddr addr n false) s) := by
  simp [memRead, readOutcome, nextAnswer_scripted h, answerOk]

/-- Everything a read can do, scripted or not (R33): one transaction, recorded as a success that
returns as many bytes as asked for, or as a failure. -/
theorem memRead_cases (addr : Byte) (n : Nat) (s : State) :
    (∃ bs : List Byte, bs.length = n ∧
      memRead addr n s = (.ok bs, transact (.read s.cfg.busAddr addr n true) s))
    ∨ ∃ e, memRead addr n s = (.error e, transact (.read s.cfg.busAddr addr n false) s) := by
  rcases h : nextAnswer s with bytes | e
  · exact .inl ⟨_, answerBytes_length bytes s.draws n, by simp [memRead, readOutcome, h, answerOk]⟩
  · exact .inr ⟨e, by simp [memRead, readOutcome, h, answerOk]⟩

/-- Everything a write can do, scripted or not (R34): one transaction, recorded as a success or as a
failure. -/
theorem memWrite_cases (addr : Byte) (data : List Byte) (s : State) :
    memWrite addr data s = (none, transact (.write s.cfg.busAddr addr data true) s)
    ∨ ∃ e, memWrite addr data s = (some e, transact (.write s.cfg.busAddr addr data false) s) := by
  rcases h : nextAnswer s with bytes | e
  · exact .inl (by simp [memWrite, writeOutcome, h, answerOk])
  · exact .inr ⟨e, by simp [memWrite, writeOutcome, h, answerOk]⟩

/-- Presenting a request to a free unit (R18, R19). -/
theorem present_free {s : State} (h : s.request = none) (w : Request) :
    present w s = .next ((s.setResponse none).setRequest (some w)) := by
  simp [present, h]

end Sys2Proof.Machine
end

