-- ==== Sys2Proof/Laws/Calibration.lean ====
section
/-! SUPPORT. What one coefficient fetch can do (spec/41_calibration_decoder.md R81, R82), for scripted
answers and for any answers, and what a sequence of fetches leaves alone. -/

namespace Sys2Proof.Machine

/-- The combination is `256 * high + low` (R82). -/
theorem combine_eq (h l : Byte) : combine h l = BitVec.ofNat 16 (256 * h.toNat + l.toNat) := by
  apply BitVec.eq_of_toNat_eq
  have hh := h.isLt
  have hl := l.isLt
  simp only [combine, BitVec.toNat_append, BitVec.toNat_ofNat]
  rw [Nat.shiftLeft_eq, Nat.mul_comm, ← Nat.two_pow_add_eq_or_of_lt (by simpa using hl)]
  rw [Nat.mod_eq_of_lt (by omega)]

/-- One scripted byte is returned as it is. -/
theorem answerBytes_one (h : Byte) (k : Nat) : answerBytes [h] k 1 = [h] := answerBytes_self [h] k

/-- Two scripted bytes are returned as they are. -/
theorem answerBytes_two (h l : Byte) (k : Nat) : answerBytes [h, l] k 2 = [h, l] :=
  answerBytes_self [h, l] k

/-- The state after the transactions of a list, whose answers are taken from the front (R40, R41). -/
def State.advance (evs : List BusEvent) (s : State) : State :=
  { s with
    answers := s.answers.drop evs.length
    draws := s.draws + evs.length
    busLog := s.busLog ++ evs }

/-- One transaction is the advance by one event. -/
theorem transact_advance (e : BusEvent) (s : State) : transact e s = s.advance [e] := by
  simp [transact_eq, State.advance, ← List.drop_one]

/-- Advances put together. -/
theorem advance_advance (es fs : List BusEvent) (s : State) :
    (s.advance es).advance fs = s.advance (es ++ fs) := by
  simp [State.advance, List.drop_drop, Nat.add_assoc]

/-- A bytewise fetch with both reads succeeding (R81). -/
theorem fetchPair_bytewise_ok {i : Nat} {s : State} {h l : Byte} {rest : List BusAnswer}
    (hm : s.cfg.fetchMode = .bytewise) (ha : s.answers = .ok [h] :: .ok [l] :: rest) :
    fetchPair i s = (.ok (combine h l),
      s.advance [.read s.cfg.busAddr (calAddr i) 1 true,
        .read s.cfg.busAddr (calAddr i + 1) 1 true]) := by
  simp [fetchPair, hm, fetchBytewise, memRead, readOutcome, nextAnswer, answerOk, transact_eq, ha,
    answerBytes_one, State.advance]

/-- A pairwise fetch with its read succeeding (R81). -/
theorem fetchPair_pairwise_ok {i : Nat} {s : State} {h l : Byte} {rest : List BusAnswer}
    (hm : s.cfg.fetchMode = .pairwise) (ha : s.answers = .ok [h, l] :: rest) :
    fetchPair i s = (.ok (combine h l), s.advance [.read s.cfg.busAddr (calAddr i) 2 true]) := by
  simp [fetchPair, hm, fetchPairwise, combinePair, memRead, readOutcome, nextAnswer, answerOk,
    transact_eq, ha, answerBytes_two, State.advance]

/-- A fetch whose first read fails: one transaction (R85). -/
theorem fetchPair_first_err {i : Nat} {s : State} {e : BusErr} {rest : List BusAnswer}
    (ha : s.answers = .err e :: rest) :
    fetchPair i s = (.error e,
      s.advance [.read s.cfg.busAddr (calAddr i)
        (match s.cfg.fetchMode with | .bytewise => 1 | .pairwise => 2) false]) := by
  rcases hm : s.cfg.fetchMode with _ | _ <;>
    simp [fetchPair, hm, fetchBytewise, fetchPairwise, memRead, readOutcome, nextAnswer, answerOk,
      transact_eq, ha, State.advance]

/-- A bytewise fetch whose second read fails: two transactions (R85). -/
theorem fetchPair_second_err {i : Nat} {s : State} {h : Byte} {e : BusErr} {rest : List BusAnswer}
    (hm : s.cfg.fetchMode = .bytewise) (ha : s.answers = .ok [h] :: .err e :: rest) :
    fetchPair i s = (.error e,
      s.advance [.read s.cfg.busAddr (calAddr i) 1 true,
        .read s.cfg.busAddr (calAddr i + 1) 1 false]) := by
  simp [fetchPair, hm, fetchBytewise, memRead, readOutcome, nextAnswer, answerOk, transact_eq, ha,
    State.advance]

/-- The reads of one fetch, address and width (R81). -/
def pairReads (mode : FetchMode) (i : Nat) : List (Byte × Nat) :=
  match mode with
  | .bytewise => [(calAddr i, 1), (calAddr i + 1, 1)]
  | .pairwise => [(calAddr i, 2)]

/-- The reads of a sequence of fetches (R80, R81). -/
def pairsReads (mode : FetchMode) (is : List Nat) : List (Byte × Nat) := is.flatMap (pairReads mode)

/-- The record of reads that all succeed. -/
def recordOk (dev : BitVec 7) (reads : List (Byte × Nat)) : List BusEvent :=
  reads.map fun r => .read dev r.1 r.2 true

/-- The record of reads of which number `k` fails, and none follows. -/
def recordErr (dev : BitVec 7) (reads : List (Byte × Nat)) (k : Nat) : List BusEvent :=
  recordOk dev (reads.take k) ++ (reads[k]?).toList.map fun r => .read dev r.1 r.2 false

/-- A failure in the first of two lists of reads. -/
theorem recordErr_left (dev : BitVec 7) {xs : List (Byte × Nat)} (ys : List (Byte × Nat)) {k : Nat}
    (h : k < xs.length) : recordErr dev (xs ++ ys) k = recordErr dev xs k := by
  simp only [recordErr]
  rw [List.take_append_of_le_length (by omega), List.getElem?_append_left h]

/-- A failure in the second of two lists of reads. -/
theorem recordErr_right (dev : BitVec 7) (xs ys : List (Byte × Nat)) (k : Nat) :
    recordErr dev (xs ++ ys) (xs.length + k) = recordOk dev xs ++ recordErr dev ys k := by
  simp [recordErr, recordOk, List.take_length_add_append, List.getElem?_append_right]

/-- Everything a fetch can do, whatever the environment answers (R81, R85): all its reads with a
pattern, or a failure at one of them and no read after it. -/
theorem fetchPair_cases (i : Nat) (s : State) :
    (∃ w, fetchPair i s =
      (.ok w, s.advance (recordOk s.cfg.busAddr (pairReads s.cfg.fetchMode i))))
    ∨ ∃ e k, k < (pairReads s.cfg.fetchMode i).length ∧ fetchPair i s =
      (.error e, s.advance (recordErr s.cfg.busAddr (pairReads s.cfg.fetchMode i) k)) := by
  rcases hm : s.cfg.fetchMode with _ | _
  · rcases memRead_cases (calAddr i) 1 s with ⟨h, -, h1⟩ | ⟨e, h1⟩
    · rcases memRead_cases (calAddr i + 1) 1 (transact (.read s.cfg.busAddr (calAddr i) 1 true) s)
        with ⟨l, -, h2⟩ | ⟨e, h2⟩
      · refine .inl ⟨combine (h.getD 0 0) (l.getD 0 0), ?_⟩
        simp only [fetchPair, hm, fetchBytewise, h1, h2]
        simp only [transact_advance, advance_advance]
        rfl
      · refine .inr ⟨e, 1, by simp [pairReads], ?_⟩
        simp only [fetchPair, hm, fetchBytewise, h1, h2]
        simp only [transact_advance, advance_advance]
        rfl
    · refine .inr ⟨e, 0, by simp [pairReads], ?_⟩
      simp only [fetchPair, hm, fetchBytewise, h1, transact_advance]
      rfl
  · rcases memRead_cases (calAddr i) 2 s with ⟨h, -, h1⟩ | ⟨e, h1⟩
    · refine .inl ⟨combinePair h, ?_⟩
      simp only [fetchPair, hm, fetchPairwise, h1, transact_advance]
      rfl
    · refine .inr ⟨e, 0, by simp [pairReads], ?_⟩
      simp only [fetchPair, hm, fetchPairwise, h1, transact_advance]
      rfl

/-- Everything a sequence of fetches can do, whatever the environment answers (R80, R85): all its reads
with their patterns, or a failure at one of them and no read after it. -/
theorem fetchAll_cases (is : List Nat) (s : State) :
    (∃ ws, fetchAll is s =
      (.ok ws, s.advance (recordOk s.cfg.busAddr (pairsReads s.cfg.fetchMode is))))
    ∨ ∃ e k, k < (pairsReads s.cfg.fetchMode is).length ∧ fetchAll is s =
      (.error e, s.advance (recordErr s.cfg.busAddr (pairsReads s.cfg.fetchMode is) k)) := by
  induction is generalizing s with
  | nil => exact .inl ⟨[], by simp [fetchAll, pairsReads, recordOk, State.advance]⟩
  | cons i is ih =>
    have hp : pairsReads s.cfg.fetchMode (i :: is)
        = pairReads s.cfg.fetchMode i ++ pairsReads s.cfg.fetchMode is := by simp [pairsReads]
    rw [hp]
    rcases fetchPair_cases i s with ⟨w, h1⟩ | ⟨e, k, hk, h1⟩
    · rcases ih (s.advance (recordOk s.cfg.busAddr (pairReads s.cfg.fetchMode i)))
        with ⟨ws, h2⟩ | ⟨e, k, hk, h2⟩
      · refine .inl ⟨w :: ws, ?_⟩
        simp only [fetchAll, h1, h2, advance_advance]
        simp [recordOk, State.advance]
      · refine .inr ⟨e, (pairReads s.cfg.fetchMode i).length + k, ?_, ?_⟩
        · have hk' : k < (pairsReads s.cfg.fetchMode is).length := hk
          simp only [List.length_append]
          omega
        · simp only [fetchAll, h1, h2, advance_advance, recordErr_right]
          rfl
    · refine .inr ⟨e, k, by simp only [List.length_append]; omega, ?_⟩
      simp only [fetchAll, h1, recordErr_left _ _ hk]

end Sys2Proof.Machine
end

