-- ==== Sys2Proof/Laws/Decode.lean ====
section
/-! SUPPORT. The fields of a request (spec/30_encoding.md R50), taken apart and put together. -/

namespace Sys2Proof

/-- The opcode field of a request put together from its fields (R50). -/
@[simp] theorem reqOpc_append (o : BitVec 8) (a b : Word) : reqOpc (o ++ a ++ b) = o := by
  apply BitVec.eq_of_getLsbD_eq
  intro i hi
  simp only [reqOpc, BitVec.getLsbD_extractLsb', BitVec.getLsbD_append]
  simp [hi, show ¬ 64 + i < 32 by omega, show ¬ 64 + i - 32 < 32 by omega,
    show 64 + i - 32 - 32 = i by omega]

/-- The operand field `A` of a request put together from its fields (R50). -/
@[simp] theorem reqA_append (o : BitVec 8) (a b : Word) : reqA (o ++ a ++ b) = a := by
  apply BitVec.eq_of_getLsbD_eq
  intro i hi
  simp only [reqA, BitVec.getLsbD_extractLsb', BitVec.getLsbD_append]
  simp [hi]

/-- The operand field `B` of a request put together from its fields (R50). -/
@[simp] theorem reqB_append (o : BitVec 8) (a b : Word) : reqB (o ++ a ++ b) = b := by
  apply BitVec.eq_of_getLsbD_eq
  intro i hi
  simp only [reqB, BitVec.getLsbD_extractLsb', BitVec.getLsbD_append]
  simp [hi]

/-- A request is its three fields put together: no bit lies outside them (R50). -/
theorem request_fields (w : Request) : reqOpc w ++ reqA w ++ reqB w = w := by
  apply BitVec.eq_of_getLsbD_eq
  intro i hi
  simp only [reqOpc, reqA, reqB, BitVec.getLsbD_extractLsb', BitVec.getLsbD_append]
  by_cases h1 : i < 32
  · simp [h1]
  · by_cases h2 : i - 32 < 32
    · simp [h1, h2, show 32 + (i - 32) = i by omega]
    · simp [h1, h2, show 64 + (i - 32 - 32) = i by omega, show i - 32 - 32 < 8 by omega]

/-- The fields of the request an operation is encoded as (R50). -/
@[simp] theorem reqOpc_encode (i : Instr) : reqOpc (encode i) = encodeOpc i := reqOpc_append _ _ _

/-- The fields of the request an operation is encoded as (R50). -/
@[simp] theorem reqA_encode (i : Instr) : reqA (encode i) = operandA i := reqA_append _ _ _

/-- The fields of the request an operation is encoded as (R50). -/
@[simp] theorem reqB_encode (i : Instr) : reqB (encode i) = operandB i := reqB_append _ _ _

/-- A row that fixes bits of the opcode only is matched by the opcode field only. -/
theorem matches_opcode (name : String) (m v o : BitVec 8) (a b : Word) :
    OpcodeRow.matches ⟨name, m ++ 0#32 ++ 0#32, v ++ 0#32 ++ 0#32⟩ (o ++ a ++ b)
      = (o &&& m == v) := by
  have h : (o ++ a ++ b) &&& (m ++ 0#32 ++ 0#32) = (o &&& m) ++ 0#32 ++ 0#32 := by
    apply BitVec.eq_of_getLsbD_eq
    intro i hi
    simp only [BitVec.getLsbD_and, BitVec.getLsbD_append]
    by_cases h1 : i < 32
    · simp [h1]
    · by_cases h2 : i - 32 < 32 <;> simp [h1, h2]
  simp only [OpcodeRow.matches, h]
  rw [Bool.eq_iff_iff]
  simp only [beq_iff_eq]
  constructor
  · intro e
    simpa using congrArg reqOpc e
  · rintro rfl
    rfl

end Sys2Proof
end

