-- ==== Sys2Proof/Laws/Exec.lean ====
section
/-! SUPPORT. What each operation can do, said once: the next state of each arm of `exec`, and the one
list of everything an operation can have done. -/

namespace Sys2Proof.Machine

@[simp] theorem exec_calLoad (a b : Word) (s : State) :
    exec (.calLoad a b) s = .next (calLoadEnd (fetchAll calIndices s)) := rfl

@[simp] theorem exec_asmUt (a b : Word) (s : State) :
    exec (.asmUt a b) s = .next (respondOk (some (rawTemperature (byte1 a) (byte0 a))) none s) := rfl

@[simp] theorem exec_asmUp (a b : Word) (s : State) :
    exec (.asmUp a b) s
      = .next (respondOk (some (rawPressure s.oss (byte2 a) (byte1 a) (byte0 a))) none s) := rfl

@[simp] theorem exec_compT (a b : Word) (s : State) :
    exec (.compT a b) s = .next (compTNext a s) := rfl

@[simp] theorem exec_compP (a b : Word) (s : State) :
    exec (.compP a b) s = .next (compPNext a b s) := rfl

@[simp] theorem exec_compAlt (a b : Word) (s : State) :
    exec (.compAlt a b) s = .next (respondOk (some (altitudeIn a s)) none (s.draw 3)) := rfl

@[simp] theorem exec_setOss (l : BitVec 2) (a b : Word) (s : State) :
    exec (.setOss l a b) s = .next (respondOk none none (s.setOss l)) := rfl

@[simp] theorem exec_setSlp (a b : Word) (s : State) :
    exec (.setSlp a b) s = .next (setSlpNext a s) := rfl

/-- Everything a `COMP.ALT` can answer (R130, R135): any value for a pressure of zero, and otherwise the
altitude of the formula. -/
theorem altitudeIn_cases (p : Word) (s : State) :
    (p = 0 ∧ altitudeIn p s = Config.freeAltitude s.draws)
    ∨ (p ≠ 0 ∧ altitudeIn p s = altitude (altNan s 0) (altNan s 1) (altNan s 2) p s.slp) := by
  by_cases h : p = 0
  · exact .inl ⟨h, if_pos h⟩
  · exact .inr ⟨h, if_neg h⟩

/-- Everything a `CAL.LOAD` can do (R80, R84, R85): all its reads and then the commit of eleven patterns
with `OK`, or a failure at one read with nothing committed. -/
theorem calLoad_cases (s : State) :
    (∃ ws, calLoadEnd (fetchAll calIndices s) =
      { s.advance (recordOk s.cfg.busAddr (pairsReads s.cfg.fetchMode calIndices)) with
        cal := Cal.ofWords ws
        calv := true
        response := some ⟨.ok, none, none, none⟩ })
    ∨ ∃ e k, k < (pairsReads s.cfg.fetchMode calIndices).length ∧
      calLoadEnd (fetchAll calIndices s) =
        { s.advance (recordErr s.cfg.busAddr (pairsReads s.cfg.fetchMode calIndices) k) with
          response := some ⟨.busError, none, none, some e⟩ } := by
  rcases fetchAll_cases calIndices s with ⟨ws, h⟩ | ⟨e, k, hk, h⟩
  · exact .inl ⟨ws, by rw [h]; rfl⟩
  · exact .inr ⟨e, k, hk, by rw [h]; rfl⟩

/-- Everything a `COMP.T` can do (R102, R106). -/
theorem compT_effect (ut : Word) (s : State) :
    (tempDen s.cal ut = 0 ∧
      compTNext ut s = { s with response := some ⟨.tempDivZero, none, none, none⟩ })
    ∨ (tempDen s.cal ut ≠ 0 ∧
      compTNext ut s =
        { s with
          response := some
            ⟨.ok, some (tempCelsius (tempB5 s.cal ut)), some (tempB5 s.cal ut), none⟩ }) := by
  by_cases h : tempDen s.cal ut = 0
  · exact .inl ⟨h, by rw [compTNext, if_pos h]; rfl⟩
  · exact .inr ⟨h, by rw [compTNext, if_neg h]; rfl⟩

/-- Everything a `COMP.P` can do (R126, R127). -/
theorem compP_effect (up b5 : Word) (s : State) :
    (pressure s.cal s.oss up b5 = none ∧
      compPNext up b5 s = { s with response := some ⟨.invalidCalibration, none, none, none⟩ })
    ∨ ∃ p, pressure s.cal s.oss up b5 = some p ∧
      compPNext up b5 s = { s with response := some ⟨.ok, some p, none, none⟩ } := by
  rcases h : pressure s.cal s.oss up b5 with _ | p
  · exact .inl ⟨rfl, by rw [compPNext, h]; rfl⟩
  · exact .inr ⟨p, rfl, by rw [compPNext, h]; rfl⟩

/-- Everything a `SET.SLP` can do (R141). -/
theorem setSlp_effect (pa : Word) (s : State) :
    (pa.toInt ≤ 0 ∧ setSlpNext pa s = { s with response := some ⟨.rejected, none, none, none⟩ })
    ∨ (0 < pa.toInt ∧
      setSlpNext pa s = { s with slp := pa, response := some ⟨.ok, none, none, none⟩ }) := by
  have hs : sle pa 0 = decide (pa.toInt ≤ 0) := by simp [sle, BitVec.sle]
  by_cases h : pa.toInt ≤ 0
  · exact .inl ⟨h, by rw [setSlpNext, hs, if_pos (decide_eq_true h)]; rfl⟩
  · exact .inr ⟨by omega, by rw [setSlpNext, hs, if_neg (by simpa using h)]; rfl⟩

end Sys2Proof.Machine
end

