-- ==== Sys2Proof/Laws/Float.lean ====
section
/-! SUPPORT. The binary32 patterns and the rounding (spec/40_arithmetic_laws.md R67), and what they say
about the altitude (spec/45_altitude.md R133). -/

namespace Sys2Proof.Machine

/-- The bits of a packed value. -/
theorem F32.toNat_pack {neg : Bool} {low : Nat} (h : low < 2 ^ 31) :
    (F32.pack neg low).toNat = if neg then 2 ^ 31 + low else low := by
  rw [F32.pack, BitVec.toNat_ofNat]
  split
  all_goals omega

/-- The sign of a packed value. -/
theorem F32.sign_pack {neg : Bool} {low : Nat} (h : low < 2 ^ 31) :
    F32.sign (F32.pack neg low) = neg := by
  rw [F32.sign, BitVec.msb_eq_decide, F32.toNat_pack h]
  cases neg <;> simp
  omega

/-- The exponent field of a packed value. -/
theorem F32.expField_pack {neg : Bool} {low : Nat} (h : low < 2 ^ 31) :
    F32.expField (F32.pack neg low) = low / 2 ^ 23 := by
  rw [F32.expField, BitVec.extractLsb'_toNat, F32.toNat_pack h, Nat.shiftRight_eq_div_pow]
  cases neg <;> simp <;> omega

/-- The fraction field of a packed value. -/
theorem F32.fraction_pack {neg : Bool} {low : Nat} (h : low < 2 ^ 31) :
    F32.fraction (F32.pack neg low) = low % 2 ^ 23 := by
  rw [F32.fraction, BitVec.extractLsb'_toNat, F32.toNat_pack h, Nat.shiftRight_eq_div_pow]
  cases neg <;> simp
  omega

/-- The magnitude of a packed value, in units of 2^-149. -/
theorem F32.units_pack {neg : Bool} {low : Nat} (h : low < 2 ^ 31) :
    F32.units (F32.pack neg low)
      = if low / 2 ^ 23 = 0 then low % 2 ^ 23
        else (2 ^ 23 + low % 2 ^ 23) * 2 ^ (low / 2 ^ 23 - 1) := by
  rw [F32.units, F32.expField_pack h, F32.fraction_pack h]

/-- A rounded magnitude is at most an infinity. -/
theorem F32.roundLow_le (n d : Nat) : F32.roundLow n d ≤ F32.infLow := Nat.min_le_right _ _

/-- The 31 low bits of a rounded value are 31 bits. -/
theorem F32.roundLow_lt (n d : Nat) : F32.roundLow n d < 2 ^ 31 :=
  Nat.lt_of_le_of_lt (F32.roundLow_le n d) (by decide)

/-- Rounding keeps the sign. -/
theorem F32.sign_round (neg : Bool) (n d : Nat) : F32.sign (F32.round neg n d) = neg :=
  F32.sign_pack (F32.roundLow_lt n d)

/-- Rounding never gives NaN. -/
theorem F32.isNan_round (neg : Bool) (n d : Nat) : F32.isNan (F32.round neg n d) = false := by
  have hle := F32.roundLow_le n d
  have hlt := F32.roundLow_lt n d
  rw [F32.isNan, F32.round, F32.expField_pack hlt, F32.fraction_pack hlt]
  simp only [F32.infLow] at hle
  simp only [Bool.and_eq_false_imp, beq_iff_eq, bne_eq_false_iff_eq]
  omega

/-- A NaN pattern is NaN, whatever its sign and payload. -/
theorem F32.isNan_nanOf (bits : Word) : F32.isNan (F32.nanOf bits) = true := by
  have e : ∀ p : Word, (bits ||| p).extractLsb' 23 8 = bits.extractLsb' 23 8 ||| p.extractLsb' 23 8 :=
    fun p => BitVec.extractLsb'_or
  have f : ∀ p : Word, (bits ||| p).extractLsb' 0 23 = bits.extractLsb' 0 23 ||| p.extractLsb' 0 23 :=
    fun p => BitVec.extractLsb'_or
  have ones : ∀ x : BitVec 8, x ||| 0xFF = 0xFF := by decide
  rw [F32.isNan, F32.expField, F32.fraction, F32.nanOf]
  split
  · rename_i h
    have hz : bits.extractLsb' 0 23 = 0 := by
      rw [f] at h
      have hc : (0x7F800000 : Word).extractLsb' 0 23 = 0 := by decide
      rw [hc] at h
      simpa using h
    have hc : (0x7F800001 : Word).extractLsb' 23 8 = 0xFF := by decide
    rw [e, f, hc, ones, hz]
    decide
  · rename_i h
    have hc : (0x7F800000 : Word).extractLsb' 23 8 = 0xFF := by decide
    rw [e, hc, ones]
    have hn : ((bits ||| 0x7F800000).extractLsb' 0 23).toNat ≠ 0 := fun hz =>
      h (BitVec.eq_of_toNat_eq hz)
    simpa using hn

/-- A NaN is not finite. -/
theorem F32.isFinite_of_isNan {x : F32} (h : F32.isNan x = true) : F32.isFinite x = false := by
  simp only [F32.isNan, Bool.and_eq_true, beq_iff_eq] at h
  simp [F32.isFinite, h.1]

/-- Rounding a quotient to a natural number leaves an error of at most one half. -/
theorem divNearestEven_error {n d : Nat} (hd : 0 < d) :
    2 * d * divNearestEven n d ≤ 2 * n + d ∧ 2 * n ≤ 2 * d * divNearestEven n d + d := by
  have hm := Nat.div_add_mod n d
  have hlt := Nat.mod_lt n hd
  have e1 : 2 * d * (n / d + 1) = 2 * (d * (n / d)) + 2 * d := by ring
  have e2 : 2 * d * (n / d) = 2 * (d * (n / d)) := by ring
  unfold divNearestEven
  split
  · rw [e1]
    omega
  · rw [e2]
    omega

/-- A tie is rounded to the even neighbour. -/
theorem divNearestEven_tie_even {n d : Nat} (h : 2 * (n % d) = d) : divNearestEven n d % 2 = 0 := by
  unfold divNearestEven
  split <;> omega

/-- Subtracting a NaN gives the NaN pattern the operation was given (R67). -/
theorem F32.sub_nan {x : F32} (nan a : F32) (h : F32.isNan x = true) : F32.sub nan a x = nan := by
  unfold F32.sub
  rw [h, Bool.or_true, if_pos rfl]

/-- Multiplying by a NaN gives the NaN pattern the operation was given (R67). -/
theorem F32.mul_nan {x : F32} (nan a : F32) (h : F32.isNan x = true) : F32.mul nan a x = nan := by
  unfold F32.mul
  rw [h, Bool.or_true, if_pos rfl]

/-- A power that is NaN makes the altitude NaN (R134). -/
theorem altFromPower_nan {nanSub nanMul pw : F32} (hs : F32.isNan nanSub = true)
    (h : F32.isNan pw = true) : altFromPower nanSub nanMul pw = nanMul := by
  rw [altFromPower, F32.sub_nan _ _ h, F32.mul_nan _ _ hs]

/-- A power that `pow32` answers meets what R133 requires. -/
theorem powerLawful_pow32 (x y : F32) : powerLawful x y (pow32 x y) = true := by
  unfold pow32
  split
  · assumption
  · unfold powerLawful powerFallback
    split
    · split
      · decide +kernel
      · split
        · have hn : F32.isNan (F32.nanOf 0) = true := F32.isNan_nanOf 0
          rw [altFromPower_nan hn hn, F32.isFinite_of_isNan hn]
          rfl
        · rfl
    · rfl

end Sys2Proof.Machine
end

