-- ==== Sys2Proof/Laws/Host.lean ====
section
/-! SUPPORT. One step of the machine, case by case: the unit's turn and the host's (spec/20_memory.md
R41, spec/47_host_sequences.md R150), and runs put together from steps. -/

namespace Sys2Proof.Machine

/-- While a request is pending the unit moves. -/
theorem step_pending {s : State} {w : Request} (h : s.request = some w) :
    step s = acceptRequest w s := by
  simp [step, h]

/-- While no request is pending the host moves. -/
theorem step_host {s : State} (h : s.request = none) : step s = hostStep s := by
  simp [step, h]

/-- The request an operation is encoded as is executed as that operation, once decoding gives it
back. -/
theorem acceptRequest_instr {s : State} {w : Request} {i : Instr} (h : decode w = .instr i) :
    acceptRequest w s = exec i (s.setRequest none) := by
  simp [acceptRequest, h]

/-- The host takes the response it waits for. -/
theorem hostStep_take {s : State} {src : ReqSource} {r : Response} (ha : s.host.awaiting = some src)
    (hr : s.response = some r) : hostStep s = .next (takeResponse src r s) := by
  simp [hostStep, ha, hr]

/-- The host executes its next statement. -/
theorem hostStep_stmt {s : State} {st : Stmt} {rest : List Stmt} (ha : s.host.awaiting = none)
    (ht : s.host.todo = st :: rest) :
    hostStep s = runStmt st (s.setHost { s.host with todo := rest }) := by
  simp [hostStep, ha, ht]

/-- The host begins its next sequence. -/
theorem hostStep_begin {s : State} {c : HostCall} {cs : List HostCall} (ha : s.host.awaiting = none)
    (ht : s.host.todo = []) (hc : s.host.calls = c :: cs) :
    hostStep s = .next (beginCall c (s.setHost { s.host with calls := cs })) := by
  simp [hostStep, ha, ht, hc]

/-- A host with nothing to do leaves the machine as it is. -/
theorem hostStep_idle {s : State} (ha : s.host.awaiting = none) (ht : s.host.todo = [])
    (hc : s.host.calls = []) : hostStep s = .next s := by
  simp [hostStep, ha, ht, hc]

/-- The end of a sequence changes the host only (R150). -/
theorem endSequence_eq (e : HostEnd) (s : State) :
    endSequence e s =
      { s with host := { s.host with todo := [], awaiting := none, last := some e } } := rfl

/-- Taking a response changes the response port and the host only. -/
theorem takeResponse_eq (src : ReqSource) (r : Response) (s : State) :
    takeResponse src r s =
      { s with
        response := none
        host :=
          if r.st = .ok then
            { s.host with awaiting := none, vars := storeResults src r s.host.vars }
          else { s.host with todo := [], awaiting := none, last := some (.err r.st r.berr) } } := by
  unfold takeResponse
  split <;> rfl

/-- The result of a request that decodes is that of its operation, whatever its operands are. -/
theorem requestResult_instr {w : Request} {i : Instr} (h : decode w = .instr i) :
    requestResult w = instrResult i := by
  simp [requestResult, h]

/-- Binding a result touches neither the bytes last read nor the last response. -/
theorem bindResult_frame (res : ResultVar) (r : Response) (v : HostVars) :
    (bindResult res r v).read = v.read ∧ (bindResult res r v).answer = v.answer := by
  cases res <;> exact ⟨rfl, rfl⟩

/-- What is known after a response that gives its result is what the check learns of it. -/
theorem storeResults_known {src : ReqSource} {r : Response} (h : src.result.given r = true)
    (v : HostVars) : (storeResults src r v).known = v.known.learn src.result := by
  unfold storeResults
  generalize src.result = res at h ⊢
  cases res <;> simp_all [ResultVar.given, bindResult, HostVars.known, Known.learn]

/-- Using held bytes changes the count of free values drawn and nothing else. -/
theorem useHeld_draw (n : Nat) (s : State) :
    useHeld n s = s.draw (if s.host.vars.read.length < n then 1 else 0) := by
  unfold useHeld; split <;> rfl

/-- A request issued to a free unit (R18, R41). -/
theorem issue_free {s : State} (h : s.request = none) (src : ReqSource) (w : Request) :
    issue src w s =
      .next { s with
        request := some w
        response := none
        host := { s.host with awaiting := some src } } := by
  simp [issue, present, h]
  rfl

/-- A run of no step. -/
@[simp] theorem run_zero (s : State) : Host.Core.run core 0 s = .next s := rfl

/-- A run goes on after a step that answers a next state. -/
theorem run_succ {s t : State} (h : step s = .next t) (n : Nat) :
    Host.Core.run core (n + 1) s = Host.Core.run core n t := by
  simp only [Host.Core.run, core, h]

/-- Runs put together. -/
theorem run_add {s t : State} {m : Nat} (n : Nat) (h : Host.Core.run core m s = .next t) :
    Host.Core.run core (m + n) s = Host.Core.run core n t := by
  induction m generalizing s with
  | zero =>
    cases h
    rw [Nat.zero_add]
  | succ m ih =>
    rcases hs : step s with s' | f | r
    · rw [run_succ hs] at h
      rw [show m + 1 + n = m + n + 1 by omega, run_succ hs]
      exact ih h
    · simp only [Host.Core.run, core, hs] at h
      cases h
    · simp only [Host.Core.run, core, hs] at h
      cases h

end Sys2Proof.Machine
end

