-- ==== Sys2Proof/Laws/PerInstr.lean ====
section
/-! SUPPORT. Statements about every operation as syntax, proved one constructor at a time.

The family `OneRow`: the request an operation is encoded as matches its own row of
spec/opcode_table.json and no other row, whatever its operands. -/

namespace Sys2Proof.Laws

/-- The mnemonics of the table's rows that a request matches. -/
def rowsMatched (w : Request) : List String :=
  (opcodeTable.filter fun r => r.matches w).map OpcodeRow.mnemonic

/-- The rows a request matches are decided by its opcode field. -/
theorem rowsMatched_opcode (o : BitVec 8) (a b : Word) :
    rowsMatched (o ++ a ++ b) = rowsMatched (o ++ 0#32 ++ 0#32) := by
  have h : ∀ r ∈ opcodeTable, r.matches (o ++ a ++ b) = r.matches (o ++ 0#32 ++ 0#32) := by
    have row : ∀ (n : String) (m v : BitVec 8),
        OpcodeRow.matches ⟨n, m ++ 0#32 ++ 0#32, v ++ 0#32 ++ 0#32⟩ (o ++ a ++ b)
          = OpcodeRow.matches ⟨n, m ++ 0#32 ++ 0#32, v ++ 0#32 ++ 0#32⟩ (o ++ 0#32 ++ 0#32) :=
      fun n m v => by rw [matches_opcode, matches_opcode]
    intro r hr
    simp only [opcodeTable, List.mem_cons, List.not_mem_nil, or_false] at hr
    rcases hr with rfl | rfl | rfl | rfl | rfl | rfl | rfl | rfl
    · exact row _ 0xFF 0x10
    · exact row _ 0xFF 0x20
    · exact row _ 0xFF 0x21
    · exact row _ 0xFF 0x30
    · exact row _ 0xFF 0x31
    · exact row _ 0xFF 0x32
    · exact row _ 0xFC 0x40
    · exact row _ 0xFF 0x50
  simp only [rowsMatched]
  rw [List.filter_congr h]

/-- The encoded operation matches its own row and no other. -/
def OneRow.Statement (i : Instr) : Prop := rowsMatched (encode i) = [mnemonicOf i]

theorem OneRow.calLoad (a b : Word) : OneRow.Statement (.calLoad a b) :=
  (rowsMatched_opcode 0x10 a b).trans
    (by decide : rowsMatched (0x10#8 ++ 0#32 ++ 0#32) = ["CAL.LOAD"])

theorem OneRow.asmUt (a b : Word) : OneRow.Statement (.asmUt a b) :=
  (rowsMatched_opcode 0x20 a b).trans
    (by decide : rowsMatched (0x20#8 ++ 0#32 ++ 0#32) = ["ASM.UT"])

theorem OneRow.asmUp (a b : Word) : OneRow.Statement (.asmUp a b) :=
  (rowsMatched_opcode 0x21 a b).trans
    (by decide : rowsMatched (0x21#8 ++ 0#32 ++ 0#32) = ["ASM.UP"])

theorem OneRow.compT (a b : Word) : OneRow.Statement (.compT a b) :=
  (rowsMatched_opcode 0x30 a b).trans
    (by decide : rowsMatched (0x30#8 ++ 0#32 ++ 0#32) = ["COMP.T"])

theorem OneRow.compP (a b : Word) : OneRow.Statement (.compP a b) :=
  (rowsMatched_opcode 0x31 a b).trans
    (by decide : rowsMatched (0x31#8 ++ 0#32 ++ 0#32) = ["COMP.P"])

theorem OneRow.compAlt (a b : Word) : OneRow.Statement (.compAlt a b) :=
  (rowsMatched_opcode 0x32 a b).trans
    (by decide : rowsMatched (0x32#8 ++ 0#32 ++ 0#32) = ["COMP.ALT"])

/-- The four levels of `SET.OSS` match its one row. -/
theorem setOss_rows : ∀ l : BitVec 2,
    rowsMatched (encodeOpc (.setOss l 0 0) ++ 0#32 ++ 0#32) = ["SET.OSS"] := by decide

theorem OneRow.setOss (l : BitVec 2) (a b : Word) : OneRow.Statement (.setOss l a b) :=
  (rowsMatched_opcode _ a b).trans (setOss_rows l)

theorem OneRow.setSlp (a b : Word) : OneRow.Statement (.setSlp a b) :=
  (rowsMatched_opcode 0x50 a b).trans
    (by decide : rowsMatched (0x50#8 ++ 0#32 ++ 0#32) = ["SET.SLP"])

end Sys2Proof.Laws
end

