-- ==== Sys2Proof/Tests/Slice0.lean ====
section
/-! SUPPORT. The model's own tests: the checks of well-formedness refusing ill-formed terms, one decoded
word for every operation, one-step vectors, and one witness for the hypotheses of every statement.

Expected values come from spec/95_test_vectors.md (the vector's id stands at the test) or from the
encoding rules of spec/30_encoding.md, never from the model. -/

open Sys2Proof Sys2Proof.Machine Sys2Proof.Rules

namespace Sys2Proof.Tests

/-! ## Helpers -/

/-- The response an outcome leaves, if it is a next state with one. -/
def answer (o : Host.Outcome State Fault Refusal) : Option Response :=
  match o with
  | .next s => s.response
  | .fault _ => none
  | .refused _ => none

/-- The machine after reset with given coefficients, level and environment answers. -/
def with_ (cal : Cal) (oss : BitVec 2) (answers : List BusAnswer) : State :=
  { State.reset with cal := cal, oss := oss, answers := answers }

/-- The reference coefficients (R9, vector CL1). -/
def ref : Cal :=
  ⟨0x0198, 0xFFB8, 0xC7D1, 0x7FE5, 0x7FF5, 0x5A71, 0x182E, 0x0004, 0x8000, 0xDDF9, 0x0B34⟩

/-- `AC4 = 1`, every other coefficient 0 (spec/95 section 2.4). -/
def oneCal : Cal := { Cal.zero with ac4 := 1 }

/-- The register image of the reference coefficients (spec/95). -/
def refBytes : List Byte :=
  [0x01, 0x98, 0xFF, 0xB8, 0xC7, 0xD1, 0x7F, 0xE5, 0x7F, 0xF5, 0x5A] ++
  [0x71, 0x18, 0x2E, 0x00, 0x04, 0x80, 0x00, 0xDD, 0xF9, 0x0B, 0x34]

/-- The same image as a function of the offset from `0xAA`. -/
def refImage (k : Nat) : Byte := refBytes.getD k 0

/-- The machine after reset about to begin one host sequence, and another after it. -/
def hosting (c : HostCall) (cal : Cal) (answers : List BusAnswer) : State :=
  { with_ cal 0 answers with host := { HostState.idle with calls := [c, .init] } }

/-! ## Well-formedness: each check refuses an ill-formed term -/

theorem test_wellFormed_refuses_family_0 :
    familyListed 0x00 = false ∧ Request.wellFormed 0x00_00000000_00000000 = false := by decide

theorem test_wellFormed_refuses_family_15 :
    familyListed 0xFF = false ∧ Request.wellFormed 0xFF_00000000_00000000 = false := by decide

/-- EN2: a listed family with a function it does not list. -/
theorem test_wellFormed_refuses_functions :
    [0x11, 0x22, 0x33, 0x44, 0x4F, 0x51].map
        (fun o : BitVec 8 => (familyListed o, functionListed o, legalOpc o))
      = List.replicate 6 (true, false, false) := by decide

/-- EN4: of the 256 opcode values exactly the eleven of R52 are legal. -/
theorem test_wellFormed_eleven_legal :
    (List.range 256).filter (fun n => legalOpc (BitVec.ofNat 8 n))
      = [0x10, 0x20, 0x21, 0x30, 0x31, 0x32, 0x40, 0x41, 0x42, 0x43, 0x50] := by decide +kernel

/-- U3: a control byte and a register that no rule writes. -/
theorem test_checkStmt_refuses_undescribed_writes :
    checkStmt Known.fresh (.busWr 0xF4 0x2F) = none
      ∧ checkStmt Known.fresh (.busWr 0xF5 0x2E) = none := by decide

/-- R33: a read of no bytes. -/
theorem test_checkStmt_refuses_empty_read : checkStmt Known.fresh (.busRd 0xF6 0) = none := by decide

/-- R51: requests whose operands no response carried, and a result never computed. -/
theorem test_checkStmt_refuses_absent_results :
    checkStmt Known.fresh (.request .compT) = none
      ∧ checkStmt { Known.fresh with up := true } (.request .compP) = none
      ∧ checkStmt Known.fresh (.request .compAlt) = none
      ∧ checkStmt Known.fresh (.endOk .pressure) = none := by decide

/-- PR1, PR2 (R58): literal requests of `COMP.T 27898` and `ASM.UP 5D, 23, 00` give the operands of a
later `COMP.P`, and a literal `COMP.P` gives the pressure of a `COMP.ALT`. -/
theorem test_checkStmts_accepts_literal_requests :
    HostCall.accepted (.statements [.request (.word 0x30_00006CFA_00000000), .endOk .temperature]) = true
      ∧ HostCall.accepted (.statements [.request (.word 0x30_00006CFA_00000000),
        .request (.word 0x21_005D2300_00000000), .request .compP, .endOk .pressure]) = true
      ∧ HostCall.accepted (.statements [.request (.word 0x31_00005D23_00000960), .request .compAlt,
        .endOk .altitude]) = true
      ∧ HostCall.accepted (.statements [.request (.word 0x31_00005D23_00000960), .request .compT])
        = false := by decide +kernel

/-- PR1 (R58): the response to the literal `COMP.T 27898` binds the temperature and `b5`. -/
theorem test_storeResults_binds_literal_request :
    storeResults (.word 0x30_00006CFA_00000000) ⟨.ok, some 0x41700000, some 2400, none⟩ HostVars.fresh
      = ⟨[], none, none, some 0x41700000, some 2400, none, none,
        some ⟨.ok, some 0x41700000, some 2400, none⟩⟩ := by decide +kernel

/-- R211, R215: a wait cut short, a read of the wrong width, a command over an unread result, a read
that does not begin at `OUT_MSB`, and a request before the result is read. -/
theorem test_hazardChecked_refuses :
    ([[.busWr 0xF4 0x2E, .wait 4999, .busRd 0xF6 2], [.busWr 0xF4 0x34, .wait 4500, .busRd 0xF6 2],
      [.busWr 0xF4 0x2E, .busWr 0xF4 0x2E], [.busWr 0xF4 0x2E, .wait 5000, .busRd 0xF7 2],
      [.busWr 0xF4 0x2E, .request .asmUt]] : List (List Stmt)).all
      (fun body => !HostCall.hazardChecked (.statements body)) = true := by decide

/-- R212, R215: each hazard violated in a record. -/
theorem test_hazardFree_refuses :
    [[.write 0x77 0xF4 [0x2E] true, .wait 4999, .read 0x77 0xF6 2 true],
      [.write 0x77 0xF4 [0x2E] true, .wait 5000, .read 0x77 0xF6 3 true],
      [.write 0x77 0xF4 [0x2E] true, .wait 5000, .read 0x77 0xF6 2 true, .read 0x77 0xF8 1 true],
      [.write 0x77 0xF4 [0x2E] true, .wait 5000, .write 0x77 0xF4 [0x34] true]].all
      (fun log => !hazardFree 0x77 log) = true := by decide

/-- R217: a sequence restarted after a failed command or a failed read; another sensor's conversion. -/
theorem test_hazardFree_allows :
    [[.write 0x77 0xF4 [0x2E] false, .write 0x77 0xF4 [0x2E] true, .wait 5000, .read 0x77 0xF6 2 true],
      [.write 0x77 0xF4 [0x2E] true, .wait 5000, .read 0x77 0xF6 2 false, .write 0x77 0xF4 [0x2E] true],
      [.write 0x76 0xF4 [0x2E] true, .write 0x77 0xF4 [0x34] true, .wait 4500, .read 0x77 0xF6 3 true]].all
      (fun log => hazardFree 0x77 log) = true := by decide

/-! ## Decoding: words written out from R50, R52, R54 -/

theorem test_decode_calLoad :
    decode 0b00010000_00000000000000000000000000000001_10000000000000000000000000000000
      = .instr (.calLoad 1 0x80000000) := by decide

theorem test_decode_asmUt :
    decode 0b00100000_00000000000000000110110011111010_00000000000000000000000000000000
      = .instr (.asmUt 27898 0) := by decide

theorem test_decode_asmUp :
    decode 0b00100001_00000000010111010010001100000000_00000000000000000000000000000000
      = .instr (.asmUp 0x5D2300 0) := by decide

theorem test_decode_compT :
    decode 0b00110000_00000000000000000110110011111010_11011110101011011011111011101111
      = .instr (.compT 27898 0xDEADBEEF) := by decide

theorem test_decode_compP :
    decode 0b00110001_00000000000000000101110100100011_00000000000000000000100101011111
      = .instr (.compP 23843 2399) := by decide

theorem test_decode_compAlt :
    decode 0b00110010_00000000000000010110111001110010_00000000000000000000000000000000
      = .instr (.compAlt 93810 0) := by decide

theorem test_decode_setOss :
    [0b01000000_00000000000000000000000000000000_00000000000000000000000000000000,
      0b01000001_00000000000000000000000000000000_00000000000000000000000000000000,
      0b01000010_00000000000000000000000000000000_00000000000000000000000000000000,
      0b01000011_00000000000000000000000000000000_00000000000000000000000000000000].map decode
      = [.instr (.setOss 0 0 0), .instr (.setOss 1 0 0), .instr (.setOss 2 0 0),
        .instr (.setOss 3 0 0)] := by decide

theorem test_decode_setSlp :
    decode 0b01010000_00000000000000011000011010100000_00000000000000000000000000000000
      = .instr (.setSlp 100000 0) := by decide

/-- EN1, EN2: illegal opcodes. -/
theorem test_decode_illegal :
    [0x00_00000000_00000000, 0x11_00000000_00000000, 0x44_00000000_00000000,
      0x4F_00000000_00000000, 0xFF_00000000_00000000].map decode
      = [.illegalOp 0x00, .illegalOp 0x11, .illegalOp 0x44, .illegalOp 0x4F, .illegalOp 0xFF] := by
  decide

/-- The bits of a word above its row's length are 0, and the decoder's answers reach the host. -/
theorem test_decodeTableWord :
    decodeTableWord 72 0x43_00000000_00000000 = some (.setOss 3 0 0)
      ∧ decodeTableWord 72 0x44_00000000_00000000 = none := by decide

/-! ## One step of each operation -/

/-- A request placed where the unit takes its next one is what the next step executes. -/
theorem test_withFetchWord_runs :
    step (State.reset.withFetchWord 72 0x43_00000000_00000000) = exec (.setOss 3 0 0) State.reset :=
  rfl

/-- CL1 (`pairwise`, see R86). -/
theorem test_calLoad_cl1 :
    (match exec (.calLoad 0 0)
        { State.reset with
          cfg := { Config.standard with fetchMode := .pairwise }
          answers := imageAnswers .pairwise refImage 11 } with
      | .next t => some (t.cal, t.calv, t.response, t.busLog.length)
      | _ => none)
      = some (ref, true, some ⟨.ok, none, none, none⟩, 11) := by decide +kernel

/-- CL7: the first transaction fails. -/
theorem test_calLoad_cl7 :
    (match exec (.calLoad 0 0) (with_ Cal.zero 0 [.err 7]) with
      | .next t => some (t.cal, t.calv, t.response, t.busLog)
      | _ => none)
      = some (Cal.zero, false, some ⟨.busError, none, none, some 7⟩, [.read 0x77 0xAA 1 false]) := by
  decide +kernel

/-- AS4: the upper bits of `A` and all of `B` are ignored. -/
theorem test_asmUt_as4 :
    answer (exec (.asmUt 0xABCD6CFA 0x12345678) State.reset)
      = some ⟨.ok, some 27898, none, none⟩ := by decide +kernel

/-- AS5 and AS8: each level, and bit 23 is no sign. -/
theorem test_asmUp_as5_as8 :
    [0, 1, 2, 3].map (fun l => answer (exec (.asmUp 0x5D2300 0) (with_ ref l [])))
      = [23843, 47686, 95372, 190744].map (fun q => some ⟨.ok, some q, none, none⟩)
    ∧ answer (exec (.asmUp 0x800000 0) (with_ ref 3 [])) = some ⟨.ok, some 262144, none, none⟩ := by
  decide +kernel

/-- T1 and T2. -/
theorem test_compT_t1_t2 :
    answer (exec (.compT 27898 0) (with_ ref 0 []))
      = some ⟨.ok, some 0x41700000, some 2400, none⟩
    ∧ answer (exec (.compT 0 0) (with_ ref 0 []))
      = some ⟨.ok, some 0xC30B3333, some 0xFFFFA905, none⟩ := by decide +kernel

/-- T6 and T8: the zero divisor, and a product that wraps. -/
theorem test_compT_t6_t8 :
    answer (exec (.compT 20285 0) (with_ ref 0 [])) = some ⟨.tempDivZero, none, none, none⟩
    ∧ answer (exec (.compT 65535 0) (with_ { ref with ac5 := 65535, ac6 := 0 } 0 []))
      = some ⟨.ok, some 0xC21C0000, some 0xFFFFE7A7, none⟩ := by decide +kernel

/-- P1, P5 and P7: the source's example, the intended wrap of R116, and the second branch of R121. -/
theorem test_compP_p1_p5_p7 :
    [(23843, 2399), (23843, 5600), (50422, 2399)].map
        (fun q : Word × Word => answer (exec (.compP q.1 q.2) (with_ ref 0 [])))
      = [69964, 73114, 149617].map (fun q => some ⟨.ok, some q, none, none⟩) := by decide +kernel

/-- P13, P14, P15: the three checks; P17: both corners of the conversion to signed. -/
theorem test_compP_p13_p14_p15_p17 :
    [answer (exec (.compP 23843 2399) (with_ { ref with ac1 := 32767 } 0 [])),
      answer (exec (.compP 200 4000) (with_ oneCal 0 [])),
      answer (exec (.compP 23843 0) (with_ Cal.zero 0 []))]
      = List.replicate 3 (some ⟨.invalidCalibration, none, none, none⟩)
    ∧ [42949, 42950].map (fun up => answer (exec (.compP up 4000) (with_ oneCal 0 [])))
      = [0xFFFEFCAD, 0x00007FF6].map (fun q => some ⟨.ok, some q, none, none⟩) := by decide +kernel

/-- AL1, AL4, AL7, AL11: the ratio, the altitude of the reference power, and an infinite ratio. -/
theorem test_compAlt_ratio_and_tail :
    altRatio 0 93810 101325 = 0x3F6D035F ∧ altRatio 0 110000 101325 = 0x3F8AF574
      ∧ altRatio 0 0xFFFFFFFF 101325 = 0xB7259408 ∧ altRatio 0 5 0 = 0x7F800000
      ∧ altFromPower 0 0 0x3F7C45F6 = 0x44215552 ∧ altFromPower 0 0 0x3F820443 = 0xC42E9AFD := by
  decide +kernel

/-- R133 holds at the fallback, and refuses a power that gives a far altitude. -/
theorem test_compAlt_lawful_power :
    powerLawful altTestRatio altExponent 0x3F7C45F6 = true
      ∧ powerLawful altTestRatio altExponent 0x3F800000 = false
      ∧ powerLawful 0xB7259408 altExponent 0x3F7C45F6 = false := by decide +kernel

/-- CF1, CF2. -/
theorem test_setOss_cf1_cf2 :
    (match exec (.setOss 3 0 0) State.reset with | .next t => some t.oss | _ => none) = some 3
    ∧ (match exec (.setOss 0 0xFFFFFFFF 0xFFFFFFFF) (with_ ref 3 []) with
        | .next t => some (t.oss, t.response)
        | _ => none) = some (0, some ⟨.ok, none, none, none⟩) := by decide +kernel

/-- CF4 to CF9. -/
theorem test_setSlp_cf4_cf9 :
    [100000, 0, 0xFFFFFFFF, 0x80000000, 1, 0x7FFFFFFF].map
        (fun pa : Word => match exec (.setSlp pa 0) State.reset with
          | .next t => some (t.slp, t.response.map Response.st)
          | _ => none)
      = [some (100000, some .ok), some (101325, some .rejected), some (101325, some .rejected),
        some (101325, some .rejected), some (1, some .ok), some (0x7FFFFFFF, some .ok)] := by
  decide +kernel

/-- T11, T14, R68: conversion and division in binary32. -/
theorem test_binary32_t11_t14 :
    [1, 3, 2, 0, 4194304].map (fun t : Word => F32.div 0 (F32.ofI32 t) F32.ten)
      = [0x3DCCCCCD, 0x3E99999A, 0x3E4CCCCD, 0x00000000, 0x48CCCCCD]
    ∧ F32.ofI32 0x7FFFFFFF = 0x4F000000 := by decide +kernel

/-! ## One step of the host -/

/-- PR1: the first statement of an acquisition is the write of the temperature command. -/
theorem test_host_writes_command :
    (match hostStep { with_ ref 0 [.ok []] with host := { HostState.idle with todo := expand .readT } }
      with
      | .next t => some (t.busLog, t.host.todo.length)
      | _ => none)
      = some ([.write 0x77 0xF4 [0x2E] true], 5) := by decide +kernel

/-- PR7: a byte that is not `0x55`. -/
theorem test_host_checks_id :
    (match hostStep
        { State.reset with
          host := { HostState.idle with
            todo := [.checkId], vars := { HostVars.fresh with read := [0xFF] } } }
      with
      | .next t => t.host.last
      | _ => none)
      = some (.err .invalidDeviceId none) := by decide +kernel

/-- R157: the operands of `COMP.P` are the raw pressure and the `b5` the host holds (PR2). -/
theorem test_host_requests_compP :
    requestWord .compP (fun _ => 0) { HostVars.fresh with up := some 23843, b5 := some 2400 }
      = some 0x31_00005D23_00000960 := by decide

/-- R53, R58: the first two bytes of a read of three are the operands of `ASM.UT`. -/
theorem test_host_assembles_first_bytes :
    (match hostStep
        { State.reset with
          host := { HostState.idle with
            todo := [.request .asmUt], vars := { HostVars.fresh with read := [0x6C, 0xFA, 0x01] } } }
      with
      | .next t => t.request
      | _ => none)
      = some 0x20_00006CFA_00000000 := by decide +kernel

/-- R58: with no byte read the request is presented all the same. -/
theorem test_host_assembles_free_bytes :
    (match hostStep { State.reset with host := { HostState.idle with todo := [.request .asmUp] } } with
      | .next t => some (t.request.isSome, t.draws)
      | _ => none)
      = some (true, 1) := rfl

/-! ## Witnesses: concrete states and operands that meet the hypotheses of each statement -/

theorem witness_DecodeOfEncode :
    Instr.wellFormed (.setOss 3 0xFFFFFFFF 0) = true ∧ Instr.wellFormed (.compP 23843 2399) = true := by
  decide

theorem witness_EncodeOfDecode :
    decode 0x31_00005D23_0000095F = .instr (.compP 23843 2399) := by decide

theorem witness_DecoderAgreesWithOpcodeTable :
    decode 0x43_00000000_00000000 = .instr (.setOss 3 0 0)
      ∧ decode 0x44_00000000_00000000 = .illegalOp 0x44 := by decide

theorem witness_StepRunsThePendingRequest :
    (State.reset.withFetchWord 72 0x30_00006CFA_00000000).request = some 0x30_00006CFA_00000000
      ∧ decode 0x30_00006CFA_00000000 = .instr (.compT 27898 0) := by decide

theorem witness_IllegalOpcodeAnswersIllegalOp :
    (State.reset.withFetchWord 72 0x44_00000000_00000000).request = some 0x44_00000000_00000000
      ∧ reqOpc 0x44_00000000_00000000
        ∉ [0x10, 0x20, 0x21, 0x30, 0x31, 0x32, 0x40, 0x41, 0x42, 0x43, 0x50] := by decide

theorem witness_IgnoredOperandsDoNotMatter :
    (0xABCD6CFA : Word).extractLsb' 0 16 = (0x6CFA : Word).extractLsb' 0 16
      ∧ (0xFF5D2300 : Word).extractLsb' 0 24 = (0x5D2300 : Word).extractLsb' 0 24 := by decide

/-- The environment answers over the reference image, and nothing is left after it. -/
theorem witness_CalLoadCommitsTheImage :
    (with_ Cal.zero 0 (imageAnswers .bytewise refImage 22)).answers
      = imageAnswers Config.standard.fetchMode refImage (calReadCount Config.standard.fetchMode) ++ [] := by
  decide +kernel

/-- CL8: the last of the 22 transactions fails; and CL7, the first. -/
theorem witness_CalLoadFailureKeepsPriorState :
    (21 < calReadCount Config.standard.fetchMode
      ∧ (with_ ref 0 (imageAnswers .bytewise refImage 21 ++ [.err 5])).answers
        = imageAnswers Config.standard.fetchMode refImage 21 ++ .err 5 :: [])
    ∧ (0 < calReadCount Config.standard.fetchMode
      ∧ (with_ ref 0 [.err 5]).answers
        = imageAnswers Config.standard.fetchMode refImage 0 ++ .err 5 :: []) := by decide +kernel

theorem witness_CalLoadIsAllOrNothing :
    (∃ t, exec (.calLoad 0 0) (with_ Cal.zero 0 (imageAnswers .bytewise refImage 22)) = .next t
      ∧ t.calv = true)
    ∧ ∃ t, exec (.calLoad 0 0) (with_ ref 0 [.err 5]) = .next t ∧ t.calv = false :=
  ⟨⟨_, rfl, by decide +kernel⟩, ⟨_, rfl, by decide +kernel⟩⟩

theorem witness_CalLoadReadsTheCalibrationRangeInOrder :
    (∃ t, exec (.calLoad 0 0) (with_ Cal.zero 0 (imageAnswers .bytewise refImage 22)) = .next t
      ∧ t.response = some ⟨.ok, none, none, none⟩ ∧ t.busLog.length = 22)
    ∧ ∃ t, exec (.calLoad 0 0) (with_ ref 0 [.err 5]) = .next t
      ∧ t.response = some ⟨.busError, none, none, some 5⟩ ∧ t.busLog.length = 1 :=
  ⟨⟨_, rfl, by decide +kernel⟩, ⟨_, rfl, by decide +kernel⟩⟩

theorem witness_FetchModesAgree :
    (with_ Cal.zero 0 (imageAnswers .bytewise refImage 22)).cfg.fetchMode = .bytewise
      ∧ ({ with_ Cal.zero 0 [] with cfg := { Config.standard with fetchMode := .pairwise } } :
        State).cfg.fetchMode = .pairwise
      ∧ (with_ Cal.zero 0 (imageAnswers .bytewise refImage 22)).answers
        = imageAnswers .bytewise refImage 22 ++ []
      ∧ (with_ Cal.zero 0 (imageAnswers .pairwise refImage 11)).answers
        = imageAnswers .pairwise refImage 11 ++ [] := by decide +kernel

theorem witness_AsmUtAssemblesTheRawTemperature :
    reqOpc 0x20_00006CFA_00000000 = 0x20 := by decide

theorem witness_AsmUpAssemblesTheRawPressure :
    reqOpc 0x21_005D2300_00000000 = 0x21 := by decide

/-- T1. -/
theorem witness_CompTAnswersTemperatureAndB5 :
    tDen (with_ ref 0 []).cal (27898 : Word).toInt ≠ 0 := by decide +kernel

/-- T6. -/
theorem witness_CompTRaisesTempDivZero :
    tDen (with_ ref 0 []).cal (20285 : Word).toInt = 0 := by decide +kernel

theorem witness_ZeroCalibrationFailsByValue : State.reset.cal = Cal.zero := rfl

/-- Both ends of the range of the raw temperature, and the largest `AC5` (R107). -/
theorem witness_CompTIsExactInItsEnvelope :
    ([0, 65535].all fun a : Word =>
      0 ≤ a.toInt && a.toInt ≤ 65535 && tX1Exact ref a.toInt + sval ref.md != 0) = true
    ∧ ref.ac5.toNat ≤ 32767 ∧ ({ ref with ac5 := 32767 } : Cal).ac5.toNat ≤ 32767
    ∧ tX1Exact { ref with ac5 := 32767 } 65535 + sval ref.md ≠ 0 := by decide +kernel

theorem witness_TemperatureIsTheNearestBinary32 :
    (16777216 : Int).natAbs ≤ 2 ^ 24 ∧ (-16777216 : Int).natAbs ≤ 2 ^ 24
      ∧ F32.isFinite 0x41700000 = true := by decide

/-- P1. -/
theorem witness_CompPAnswersThePressure :
    pressureRule (with_ ref 0 []).cal (with_ ref 0 []).oss.toNat (23843 : Word).toInt
      (2399 : Word).toInt = some 69964 := by decide +kernel

/-- P13, P15 and P14: the subtraction, the zero divisor and the square. -/
theorem witness_CompPRaisesInvalidCalibration :
    pressureRule { ref with ac1 := 32767 } 0 (23843 : Word).toInt (2399 : Word).toInt = none
      ∧ pressureRule Cal.zero 0 (23843 : Word).toInt (0 : Word).toInt = none
      ∧ pressureRule oneCal 0 (200 : Word).toInt (4000 : Word).toInt = none := by decide +kernel

/-- P1, P12 with both ends of the range of `b5`, and a raw pressure of 0, where the difference check
fails. -/
theorem witness_CompPIsExactInItsEnvelope :
    ([(23843, 2399), (23843, 0xFFFFEFA0), (0, 12192), (65535, 2399)].all
      fun q : Word × Word =>
        -4192 ≤ q.2.toInt && q.2.toInt ≤ 12192 && 0 ≤ q.1.toInt && q.1.toInt ≤ 2 ^ 16 - 1
          && pQuotExact ref 0 q.1.toInt q.2.toInt ≤ 215295) = true
    ∧ pressureExact ref 0 23843 2399 = some 69964
    ∧ pressureExact ref 0 23843 (-4192) = some 63570
    ∧ pressureExact ref 0 0 12192 = none := by decide +kernel

/-- Coefficients that differ where `COMP.P` does not look, and where `COMP.T` does not look. -/
theorem witness_CompensationReadsOnlyItsCoefficients :
    (∃ t t', exec (.compP 23843 2399) (with_ ref 0 []) = .next t
      ∧ exec (.compP 23843 2399) (with_ { ref with mb := 1, mc := 2, md := 3 } 0 []) = .next t')
    ∧ ref.ac1 = ({ ref with mb := 1, mc := 2, md := 3 } : Cal).ac1
    ∧ (∃ t t', exec (.compT 27898 0) (with_ ref 0 []) = .next t
      ∧ exec (.compT 27898 0) (with_ { ref with mb := 1, ac1 := 2, b2 := 3 } 3 []) = .next t')
    ∧ ref.md = ({ ref with mb := 1, ac1 := 2, b2 := 3 } : Cal).md :=
  ⟨⟨_, _, rfl, rfl⟩, rfl, ⟨_, _, rfl, rfl⟩, rfl⟩

/-- AL7. -/
theorem witness_NegativePressureAltitudeIsNotFinite :
    (0xFFFFFFFF : Word).toInt < 0 ∧ (0x80000000 : Word).toInt < 0 ∧ 0 < State.reset.slp.toInt
      ∧ ∃ t, exec (.compAlt 0xFFFFFFFF 0) State.reset = .next t :=
  ⟨by decide, by decide, by decide, _, rfl⟩

theorem witness_CompAltAnswersTheAltitude : (93810 : Word) ≠ 0 ∧ (0x80000000 : Word) ≠ 0 := by decide

/-- AL1. -/
theorem witness_AltitudeAtTheTestPoint :
    State.reset.slp = 101325 ∧ ∃ t, exec (.compAlt 93810 0) State.reset = .next t :=
  ⟨rfl, _, rfl⟩

theorem witness_EqualPressureHasRatioOne : (101325 : Word) ≠ 0 ∧ (0x80000000 : Word) ≠ 0 := by decide

theorem witness_SmallIntegersConvertExactly :
    (16777216 : Word).toInt.natAbs ≤ 2 ^ 24 ∧ (0xFF000000 : Word).toInt.natAbs ≤ 2 ^ 24 := by decide

/-- A tie between two neighbours, `2^24 + 1`, rounded to the even one, and the other neighbour equally
near. -/
theorem witness_RoundingIsToNearestEven :
    0 < 1 ∧ F32.isFinite 0x4B800001 = true
      ∧ F32.isFinite (F32.round false 16777217 1) = true
      ∧ F32.round false 16777217 1 = 0x4B800000
      ∧ F32.signedUnits 0x4B800001 - 16777217 * 2 ^ 149
        = 16777217 * 2 ^ 149 - F32.signedUnits (F32.round false 16777217 1)
      ∧ F32.signedUnits 0x4B800001 ≠ F32.signedUnits (F32.round false 16777217 1) := by
  decide +kernel

theorem witness_LevelIsReadByTwoOperationsOnly :
    (∀ a b, Instr.compT 27898 0 ≠ .asmUp a b) ∧ (∀ a b, Instr.compT 27898 0 ≠ .compP a b)
      ∧ (∀ l' a b, Instr.compT 27898 0 ≠ .setOss l' a b)
      ∧ ∃ t, exec (.compT 27898 0) (with_ ref 0 []) = .next t :=
  ⟨by simp, by simp, by simp, _, rfl⟩

theorem witness_SetSlpAcceptsPositiveOnly :
    0 < (1 : Word).toInt ∧ 0 < (0x7FFFFFFF : Word).toInt ∧ (0 : Word).toInt ≤ 0
      ∧ (0x80000000 : Word).toInt ≤ 0 := by decide

theorem witness_EachRegisterHasOneWriter :
    (∃ t, exec (.calLoad 0 0) (with_ Cal.zero 0 (imageAnswers .bytewise refImage 22)) = .next t
      ∧ t.cal ≠ Cal.zero)
    ∧ (∃ t, exec (.setOss 3 0 0) State.reset = .next t ∧ t.oss ≠ State.reset.oss)
    ∧ (∃ t, exec (.setSlp 1 0) State.reset = .next t ∧ t.slp ≠ State.reset.slp)
    ∧ (∃ t, exec (.compT 0 0) { State.reset with calv := true } = .next t ∧ t.calv = true) :=
  ⟨⟨_, rfl, by decide +kernel⟩, ⟨_, rfl, by decide⟩, ⟨_, rfl, by decide⟩,
    ⟨_, rfl, by decide +kernel⟩⟩

theorem witness_OperationsLeaveTheEnvironmentAlone :
    (∃ t, exec (.setOss 3 0 0) State.reset = .next t) ∧ (∀ a b, Instr.setOss 3 0 0 ≠ .calLoad a b)
      ∧ ∀ a b, Instr.setOss 3 0 0 ≠ .compAlt a b :=
  ⟨⟨_, rfl⟩, by simp, by simp⟩

theorem witness_NonOkOutcomeLeavesTheUnitUntouched :
    (∃ t r, exec (.setSlp 0 0) State.reset = .next t ∧ t.response = some r ∧ r.st ≠ .ok)
    ∧ ∃ t r, exec (.calLoad 0 0) (with_ ref 0 [.err 5]) = .next t ∧ t.response = some r
      ∧ r.st ≠ .ok :=
  ⟨⟨_, ⟨.rejected, none, none, none⟩, rfl, by decide, by decide⟩,
    ⟨_, ⟨.busError, none, none, some 5⟩, rfl, by decide +kernel, by decide⟩⟩

theorem witness_OutcomesOfEachOperation :
    ∃ t, exec (.setSlp 0 0) State.reset = .next t := ⟨_, rfl⟩

/-- A sound state from which a step is taken: `CAL.LOAD` pending after reset. -/
theorem witness_StepKeepsTheUnitSound :
    UnitSound (State.reset.withFetchWord 72 0x10_00000000_00000000)
      ∧ ∃ t, step (State.reset.withFetchWord 72 0x10_00000000_00000000) = .next t :=
  ⟨⟨fun _ h => (by cases h), fun _ => rfl⟩, _, rfl⟩

/-- A host that waits: with its request pending, and with the response there. -/
theorem witness_HostIsNeverBlocked :
    HostServed
        { State.reset with
          request := some 0x40_00000000_00000000
          host := { HostState.idle with awaiting := some (.word 0x40_00000000_00000000) } }
      ∧ HostServed
        { State.reset with
          response := some ⟨.ok, none, none, none⟩
          host := { HostState.idle with awaiting := some (.word 0x40_00000000_00000000) } } :=
  ⟨fun _ => .inl (by decide), fun _ => .inr (by decide)⟩

/-- A host program of every pseudo-operation. -/
theorem witness_AcceptedProgramsNeverStop :
    Accepted
      { State.reset with
        host := { HostState.idle with
          calls := [.new Config.standard, .testConn, .init, .acqT, .acqP, .readT, .readP, .readAlt,
            .softReset, .setOversampling 3, .setSeaLevelPressure 100000] } } :=
  ⟨by decide, by decide⟩

theorem witness_FacadeCallsAreAccepted : ∀ body, HostCall.readAlt ≠ .statements body := by simp

theorem witness_NewConstructsTheUnit :
    Begins (.new Config.standard) [.init] (hosting (.new Config.standard) ref []) :=
  ⟨rfl, rfl, rfl, rfl⟩

theorem witness_TestConnOutcomes :
    (Begins .testConn [.init] (hosting .testConn ref [.ok [0x55]])
      ∧ (hosting .testConn ref [.ok [0x55]]).answers = .ok [0x55] :: [])
    ∧ (Begins .testConn [.init] (hosting .testConn ref [.ok [0xFF]])
      ∧ (hosting .testConn ref [.ok [0xFF]]).answers = .ok [0xFF] :: [])
    ∧ Begins .testConn [.init] (hosting .testConn ref [.err 2])
      ∧ (hosting .testConn ref [.err 2]).answers = .err 2 :: [] :=
  ⟨⟨⟨rfl, rfl, rfl, rfl⟩, rfl⟩, ⟨⟨rfl, rfl, rfl, rfl⟩, rfl⟩, ⟨rfl, rfl, rfl, rfl⟩, rfl⟩

/-- PR1: the raw temperature of `6C FA` with the reference coefficients. -/
theorem witness_ReadTemperatureSequence :
    Begins .readT [.init] (hosting .readT ref [.ok [], .ok [0x6C, 0xFA]])
      ∧ tDen ref (utOf 0x6C 0xFA) ≠ 0 ∧ tT10 ref (utOf 0x6C 0xFA) = 150 :=
  ⟨⟨rfl, rfl, rfl, rfl⟩, by decide +kernel, by decide +kernel⟩

/-- PR2. -/
theorem witness_ReadPressureSequence :
    Begins .readP [.init]
        (hosting .readP ref [.ok [], .ok [0x6C, 0xFA], .ok [], .ok [0x5D, 0x23, 0x00]])
      ∧ tDen ref (utOf 0x6C 0xFA) ≠ 0
      ∧ pressureRule ref 0 (upOf 0 0x5D 0x23 0x00) (tB5 ref (utOf 0x6C 0xFA)) = some 69964 :=
  ⟨⟨rfl, rfl, rfl, rfl⟩, by decide +kernel, by decide +kernel⟩

/-- PR3. -/
theorem witness_ReadAltitudeSequence :
    Begins .readAlt [.init]
        (hosting .readAlt ref [.ok [], .ok [0x6C, 0xFA], .ok [], .ok [0x5D, 0x23, 0x00]])
      ∧ tDen ref (utOf 0x6C 0xFA) ≠ 0
      ∧ pressureRule ref 0 (upOf 0 0x5D 0x23 0x00) (tB5 ref (utOf 0x6C 0xFA)) = some 69964 :=
  ⟨⟨rfl, rfl, rfl, rfl⟩, by decide +kernel, by decide +kernel⟩

/-- PR5. -/
theorem witness_ReadBeforeInitFailsInCompensation :
    Begins .readP [.init]
        (hosting .readP Cal.zero [.ok [], .ok [0x6C, 0xFA], .ok [], .ok [0x5D, 0x23, 0x00]])
      ∧ (hosting .readP Cal.zero []).cal = Cal.zero :=
  ⟨⟨rfl, rfl, rfl, rfl⟩, rfl⟩

/-- PR9, and the same with a failing write. -/
theorem witness_SoftResetLeavesTheUnitAlone :
    (Begins .softReset [.init] (hosting .softReset ref [.ok []])
      ∧ (hosting .softReset ref [.ok []]).answers = .ok [] :: [])
    ∧ Begins .softReset [.init] (hosting .softReset ref [.err 4])
      ∧ (hosting .softReset ref [.err 4]).answers = .err 4 :: [] :=
  ⟨⟨⟨rfl, rfl, rfl, rfl⟩, rfl⟩, ⟨rfl, rfl, rfl, rfl⟩, rfl⟩

/-- A host with the given statements left, whose next transaction fails. -/
def failing (todo : List Stmt) : State :=
  { with_ ref 0 [.err 3] with host := { HostState.idle with todo := todo } }

/-- PR8 for each kind of bus statement with its event; and a response that is not `OK`. -/
theorem witness_FailureEndsTheSequence :
    (∀ st : Stmt, (failing [st, .endOk .nothing]).request = none
      ∧ (failing [st, .endOk .nothing]).host.awaiting = none
      ∧ (failing [st, .endOk .nothing]).host.todo = st :: [.endOk .nothing]
      ∧ (failing [st, .endOk .nothing]).answers = .err 3 :: [])
    ∧ (describedWrite 0xF4 0x2E = true ∧ describedWrite 0xE0 0xB6 = true
      ∧ BusEvent.write (failing []).cfg.busAddr 0xE0 [0xB6] false = .write 0x77 0xE0 [0xB6] false)
    ∧ (BusEvent.write (failing []).cfg.busAddr 0xF4 [controlPressure (failing []).oss] false
      = .write 0x77 0xF4 [0x34] false)
    ∧ (0 < 2 ∧ BusEvent.read (failing []).cfg.busAddr 0xF6 2 false = .read 0x77 0xF6 2 false)
    ∧ ∃ s : State, s.request = none ∧ s.host.awaiting = some .compT
      ∧ s.response = some ⟨.tempDivZero, none, none, none⟩ ∧ Status.tempDivZero ≠ .ok :=
  ⟨fun _ => ⟨rfl, rfl, rfl, rfl⟩, by decide, by decide, by decide,
    { State.reset with
      response := some ⟨.tempDivZero, none, none, none⟩
      host := { HostState.idle with awaiting := some .compT } },
    rfl, rfl, rfl, by decide⟩

theorem witness_SecondRequestIsRefused :
    (State.reset.withFetchWord 72 0x40_00000000_00000000).request ≠ none
      ∧ State.reset.request = none := by decide

/-- A host in the middle of a pressure acquisition, after the command and before the wait, takes a step;
and calls that pass the check, one of the program's own among them. -/
theorem witness_ReadsRespectTheHazards :
    (HazardSafe
        { State.reset with
          busLog := [.write 0x77 0xF4 [0x34] true]
          host := { HostState.idle with
            calls := [.readAlt], todo := [.waitPressure, .busRd 0xF6 3, .request .asmUp] } }
      ∧ ∃ t, step
        { State.reset with
          busLog := [.write 0x77 0xF4 [0x34] true]
          host := { HostState.idle with
            calls := [.readAlt], todo := [.waitPressure, .busRd 0xF6 3, .request .asmUp] } } = .next t)
    ∧ (∀ body, HostCall.readP ≠ .statements body)
    ∧ ∀ c ∈ [HostCall.readP, .statements [.busWr 0xF4 0x2E, .wait 6000, .busRd 0xF6 2]],
      c.hazardChecked = true := by
  refine ⟨⟨⟨fun dev h => ⟨.quiet, ?_, rfl⟩, ⟨.running 3 4500, .pressure, by decide, by decide, by decide,
    fun h => absurd h (by decide)⟩, by decide⟩, _, rfl⟩, by simp, by decide⟩
  simp only [hazardRun, hazardStep]
  rw [if_pos fun e => h e.symm]

end Sys2Proof.Tests
end

section
/-! PROOF. The opcode map (spec/30_encoding.md R52, R54): the decoder's one test for the `SET.OSS`
family accepts the four opcode values of its levels and no other. -/

namespace Sys2Proof

/-- The six bits the decoder tests for `SET.OSS` and the level it reads make up the opcode (R54). -/
theorem opcode_prefix_append_level (opc : BitVec 8) :
    opc.extractLsb' 2 6 ++ opc.extractLsb' 0 2 = opc := by
  rw [BitVec.extractLsb'_append_extractLsb'_eq_extractLsb' (by rfl)]
  exact BitVec.extractLsb'_eq_self

/-- The levels of `SET.OSS` (R54). -/
theorem level_cases : ∀ l : BitVec 2, l = 0 ∨ l = 1 ∨ l = 2 ∨ l = 3 := by
  decide

/-- The opcode values of `SET.OSS` (R52): the prefix 010000 with each of the four levels. -/
theorem setOssPrefix_iff (opc : BitVec 8) :
    opc.extractLsb' 2 6 = 0b010000 ↔ opc = 0x40 ∨ opc = 0x41 ∨ opc = 0x42 ∨ opc = 0x43 := by
  constructor
  · intro hprefix
    have hparts := opcode_prefix_append_level opc
    rw [hprefix] at hparts
    rcases level_cases (opc.extractLsb' 0 2) with hl | hl | hl | hl <;>
      rw [hl] at hparts <;> subst hparts <;> decide
  · rintro (rfl | rfl | rfl | rfl) <;> rfl

/-- Settles O2: an opcode with the prefix of `SET.OSS` is one of the four values of that family, where
the decoder and the map both read off the level; any other opcode is none of the four, and the decoder
and the map ask the same of it in the same order. -/
theorem opcodeMapIsTheElevenValues : Obligations.OpcodeMapIsTheElevenValues := by
  intro w
  unfold decode decodeFields
  generalize reqOpc w = opc
  by_cases hprefix : opc.extractLsb' 2 6 = 0b010000
  · rcases (setOssPrefix_iff opc).mp hprefix with rfl | rfl | rfl | rfl <;> rfl
  · have hnone := mt (setOssPrefix_iff opc).mpr hprefix
    simp only [not_or] at hnone
    obtain ⟨h40, h41, h42, h43⟩ := hnone
    rw [if_neg hprefix, if_neg h40, if_neg h41, if_neg h42, if_neg h43]

end Sys2Proof
end

section
/-! PROOF. Raw sample assembly (spec/42_raw_sample_assembly.md R90 to R92): the assembled codes are the
integers of the rules, which lie in the ranges the rules state. -/

namespace Sys2Proof

/-- A request whose opcode is known decodes as that opcode says (R50, R52). -/
theorem decode_of_reqOpc {w : Request} {opc : BitVec 8} (hopc : reqOpc w = opc) :
    decode w = decodeFields opc (reqA w) (reqB w) := by
  rw [decode, hopc]

namespace Rules

/-- The range of a raw temperature (R90): two bytes, and no sign. -/
theorem utOf_range (msb lsb : Byte) : 0 ≤ utOf msb lsb ∧ utOf msb lsb ≤ 65535 := by
  have hm := msb.isLt
  have hl := lsb.isLt
  unfold utOf
  omega

/-- The width of a raw pressure and the bits shifted out make up the three bytes (R91, R92). -/
theorem rawPressure_width_mul_shift (oss : BitVec 2) :
    (2 : Int) ^ (16 + oss.toNat) * 2 ^ (8 - oss.toNat) = 2 ^ 24 := by
  rw [← pow_add, show 16 + oss.toNat + (8 - oss.toNat) = 24 by omega]

/-- The range of a raw pressure at a level (R91): the three bytes are below `2^24`, so their quotient by
`2^(8 - OSS)` is below `2^(16 + OSS)`. -/
theorem upOf_range (oss : BitVec 2) (msb lsb xlsb : Byte) :
    0 ≤ upOf oss msb lsb xlsb ∧ upOf oss msb lsb xlsb ≤ 2 ^ (16 + oss.toNat) - 1 := by
  have hm := msb.isLt
  have hl := lsb.isLt
  have hx := xlsb.isLt
  constructor
  · exact Int.ediv_nonneg (by omega) (by positivity)
  · apply Int.le_sub_one_of_lt
    apply Int.ediv_lt_of_lt_mul (by positivity)
    rw [rawPressure_width_mul_shift]
    omega

end Rules

namespace Machine
open Rules

/-- The word `ASM.UT` answers stands for the code of R90. -/
theorem toInt_rawTemperature_eq_utOf (msb lsb : Byte) :
    (rawTemperature msb lsb).toInt = utOf msb lsb := by
  rw [toInt_rawTemperature, utOf]
  push_cast
  rfl

/-- The word `ASM.UP` answers stands for the code of R91. -/
theorem toInt_rawPressure_eq_upOf (oss : BitVec 2) (msb lsb xlsb : Byte) :
    (rawPressure oss msb lsb xlsb).toInt = upOf oss msb lsb xlsb := by
  rw [toInt_rawPressure, upOf, assemblyShift]
  push_cast
  rfl

end Machine

open Machine Rules

/-- Settles O16: the code assembled from `A[15:8]` and `A[7:0]` is the integer of R90, which two bytes
keep in range. -/
theorem asmUtAssemblesTheRawTemperature : Obligations.AsmUtAssemblesTheRawTemperature := by
  refine ⟨fun w hopc => decode_of_reqOpc hopc, fun a b s => ?_⟩
  have hvalue := toInt_rawTemperature_eq_utOf (byte1 a) (byte0 a)
  refine ⟨rawTemperature (byte1 a) (byte0 a), ?_, hvalue, ?_⟩
  · rw [exec_asmUt, respondOk_eq]
  · rw [hvalue]
    exact utOf_range _ _

/-- Settles O17: the code assembled from `A[23:16]`, `A[15:8]`, `A[7:0]` at the level `OSS` is the
integer of R91, which three bytes and the shift keep in range. -/
theorem asmUpAssemblesTheRawPressure : Obligations.AsmUpAssemblesTheRawPressure := by
  refine ⟨fun w hopc => decode_of_reqOpc hopc, fun a b s => ?_⟩
  have hvalue := toInt_rawPressure_eq_upOf s.oss (byte2 a) (byte1 a) (byte0 a)
  refine ⟨rawPressure s.oss (byte2 a) (byte1 a) (byte0 a), ?_, hvalue, ?_⟩
  · rw [exec_asmUp, respondOk_eq]
  · rw [hvalue]
    exact upOf_range _ _ _ _

/-- Settles O18: a closed table of four levels, evaluated. -/
theorem oversamplingTable : Obligations.OversamplingTable := by
  unfold Obligations.OversamplingTable
  decide

end Sys2Proof
end

section
/-! PROOF. Temperature compensation (spec/43_temperature.md R101 to R106): each intermediate pattern of
`COMP.T` stands for the integer of its rule, and so the answer is that of the rules. -/

namespace Sys2Proof.Machine
open Rules

/-- The balanced remainder the wrapping laws speak of is `wrap_s32` of the rules (R8). -/
theorem bmod_eq_wrapS (z : Int) : z.bmod (2 ^ 32) = wrapS z := by
  rw [Int.bmod_def, wrapS]
  split <;> omega

/-- A wrap inside a wrapped sum changes nothing (R8, R60). -/
theorem wrapS_add_wrapS (x y : Int) : wrapS (x + wrapS y) = wrapS (x + y) := by
  unfold wrapS
  omega

/-- A wrapped addition as the rules write it (R8, R60). -/
theorem toInt_add_wrapS (x y : Word) : (x + y).toInt = wrapS (x.toInt + y.toInt) := by
  rw [toInt_add_wrap, bmod_eq_wrapS]

/-- A wrapped subtraction as the rules write it (R8, R60). -/
theorem toInt_sub_wrapS (x y : Word) : (x - y).toInt = wrapS (x.toInt - y.toInt) := by
  rw [toInt_sub_wrap, bmod_eq_wrapS]

/-- A wrapped multiplication as the rules write it (R8, R60). -/
theorem toInt_mul_wrapS (x y : Word) : (x * y).toInt = wrapS (x.toInt * y.toInt) := by
  rw [toInt_mul_wrap, bmod_eq_wrapS]

/-- A left shift as the rules write it (R8, R63). -/
theorem toInt_shl_wrapS (x : Word) (n : Nat) : (shl x n).toInt = wrapS (x.toInt * 2 ^ n) := by
  rw [toInt_shl, bmod_eq_wrapS]

/-- A truncating division as the rules write it (R8, R64). -/
theorem toInt_tdiv_wrapS (x y : Word) : (tdiv x y).toInt = wrapS (x.toInt.tdiv y.toInt) := by
  rw [toInt_tdiv, bmod_eq_wrapS]

/-- The pattern of the integer a word stands for is the word (R8). -/
@[simp] theorem bits_toInt (x : Word) : bits x.toInt = x := BitVec.ofInt_toInt

/-- `x1` of the unit is that of R101. -/
theorem toInt_tempX1 (c : Cal) (ut : Word) : (tempX1 c ut).toInt = tX1 c ut.toInt := by
  have hac5 : (c.value .ac5).toInt = uval c.ac5 := toInt_value_unsigned c .ac5 rfl
  have hac6 : (c.value .ac6).toInt = uval c.ac6 := toInt_value_unsigned c .ac6 rfl
  rw [tempX1, toInt_asr, toInt_mul_wrapS, toInt_sub_wrapS, hac5, hac6, tX1]

/-- The divisor of the unit is that of R102. -/
theorem toInt_tempDen (c : Cal) (ut : Word) : (tempDen c ut).toInt = tDen c ut.toInt := by
  have hmd : (c.value .md).toInt = sval c.md := toInt_value_signed c .md rfl
  rw [tempDen, toInt_add_wrapS, toInt_tempX1, hmd, tDen]

/-- The unit's check for a zero divisor is that of R102. -/
theorem tempDen_eq_zero_iff (c : Cal) (ut : Word) : tempDen c ut = 0 ↔ tDen c ut.toInt = 0 := by
  have h0 : (0 : Word).toInt = 0 := rfl
  rw [← toInt_tempDen, ← BitVec.toInt_inj, h0]

/-- `x2` of the unit is that of R103, wrapped. -/
theorem toInt_tempX2 (c : Cal) (ut : Word) : (tempX2 c ut).toInt = wrapS (tX2 c ut.toInt) := by
  have hmc : (c.value .mc).toInt = sval c.mc := toInt_value_signed c .mc rfl
  rw [tempX2, toInt_tdiv_wrapS, toInt_shl_wrapS, toInt_tempDen, hmc, tX2]

/-- `b5` of the unit is that of R104. -/
theorem toInt_tempB5 (c : Cal) (ut : Word) : (tempB5 c ut).toInt = tB5 c ut.toInt := by
  rw [tempB5, toInt_add_wrapS, toInt_tempX1, toInt_tempX2, wrapS_add_wrapS, tB5]

/-- The temperature in tenths of the unit is that of R105. -/
theorem toInt_tempTenths_tempB5 (c : Cal) (ut : Word) :
    (tempTenths (tempB5 c ut)).toInt = tT10 c ut.toInt := by
  have h8 : (8 : Word).toInt = 8 := rfl
  rw [tempTenths, toInt_asr, toInt_add_wrapS, toInt_tempB5, h8, tT10]

/-- The temperature in degrees Celsius of the unit is that of R105. -/
theorem tempCelsius_tempB5 (c : Cal) (ut : Word) :
    tempCelsius (tempB5 c ut) = celsius (tT10 c ut.toInt) := by
  rw [tempCelsius, celsius, ← toInt_tempTenths_tempB5, bits_toInt]

end Sys2Proof.Machine

namespace Sys2Proof
open Machine Rules

/-- Settles O19: the divisor of the unit is that of R102, so it is not zero, and the two results
answered then are those of R104 and R105. -/
theorem compTAnswersTemperatureAndB5 : Obligations.CompTAnswersTemperatureAndB5 := by
  intro a b s hden
  rcases compT_effect a s with ⟨hzero, -⟩ | ⟨-, hnext⟩
  · exact absurd ((tempDen_eq_zero_iff s.cal a).mp hzero) hden
  · rw [exec_compT, hnext, tempCelsius_tempB5, ← toInt_tempB5, bits_toInt]

end Sys2Proof
end

section
/-! PROOF. Pressure compensation (spec/44_pressure.md R111 to R127): each intermediate pattern of
`COMP.P` stands for the integer of its rule, signed up to `x3b` and unsigned from `m4` to the quotient, so
the three checks fail exactly where the rules say and the answer is that of the rules. -/

namespace Sys2Proof.Machine
open Rules

/-! ## The unsigned laws as the rules write them -/

/-- The reading of a signed value as unsigned, `as_u32` of the rules (R8, R65). -/
theorem toNat_eq_wrapU (x : Word) : (x.toNat : Int) = wrapU x.toInt := by
  have hx := x.isLt
  rw [BitVec.toInt_eq_toNat_cond, wrapU]
  split <;> omega

/-- The reading of an unsigned value as signed, `as_i32` of the rules (R8, R122). -/
theorem toInt_eq_wrapS_toNat (x : Word) : x.toInt = wrapS x.toNat := by
  rw [← bmod_eq_wrapS, BitVec.toInt_eq_toNat_bmod]

/-- A wrapped addition of unsigned values as the rules write it (R8, R60). -/
theorem toNat_add_wrapU (x y : Word) : ((x + y).toNat : Int) = wrapU (x.toNat + y.toNat) := by
  rw [BitVec.toNat_add]
  push_cast
  rfl

/-- A wrapped multiplication of unsigned values as the rules write it (R8, R60). -/
theorem toNat_mul_wrapU (x y : Word) : ((x * y).toNat : Int) = wrapU (x.toNat * y.toNat) := by
  rw [BitVec.toNat_mul]
  push_cast
  rfl

/-- A logical right shift as the rules write it (R62). -/
theorem toNat_lsr_cast (x : Word) (n : Nat) : ((lsr x n).toNat : Int) = x.toNat / 2 ^ n := by
  rw [toNat_lsr]
  push_cast
  rfl

/-- An unsigned coefficient read as unsigned (R10, R11). -/
theorem toNat_value_unsigned (c : Cal) (k : Coef) (hk : k.signed = false) :
    (c.value k).toNat = (c.raw k).toNat := by
  simp only [Cal.value, hk, Bool.false_eq_true, if_false, toNat_zext16]

/-- The pattern of an integer read as signed, the wrap of the integer (R8). -/
theorem toInt_bits (z : Int) : (bits z).toInt = wrapS z := by
  rw [bits, BitVec.toInt_ofInt, bmod_eq_wrapS]

/-- A `u32` value is its own wrap (R8). -/
theorem wrapU_natCast {n : Nat} (hn : n < 2 ^ 32) : wrapU n = n := by
  unfold wrapU
  omega

/-- An `i32` value is its own wrap (R8). -/
theorem wrapS_eq_self {z : Int} (hlo : -2147483648 ≤ z) (hhi : z ≤ 2147483647) : wrapS z = z := by
  unfold wrapS
  omega

/-- The truncating quotient by 4 of an `i32` value does not wrap (R64). -/
theorem wrapS_toInt_tdiv_four (x : Word) : wrapS (x.toInt.tdiv 4) = x.toInt.tdiv 4 := by
  have hlo := x.le_toInt
  have hhi := x.toInt_lt
  have habs : (x.toInt.tdiv 4).natAbs = x.toInt.natAbs / 4 := Int.natAbs_tdiv _ _
  exact wrapS_eq_self (by omega) (by omega)

/-! ## The signed intermediates, R111 to R115 -/

/-- `b6` of the unit is that of R111. -/
theorem toInt_pressB6 (b5 : Word) : (pressB6 b5).toInt = pB6 b5.toInt := by
  have h4000 : (4000 : Word).toInt = 4000 := rfl
  rw [pressB6, toInt_sub_wrapS, h4000, pB6]

/-- `sq` of the unit is that of R112. -/
theorem toInt_pressSq (b5 : Word) : (pressSq b5).toInt = pSq b5.toInt := by
  rw [pressSq, toInt_asr, toInt_mul_wrapS, toInt_pressB6, pSq]

/-- `x1` of the unit is that of R113. -/
theorem toInt_pressX1 (c : Cal) (b5 : Word) : (pressX1 c b5).toInt = pX1 c b5.toInt := by
  have hb2 : (c.value .b2).toInt = sval c.b2 := toInt_value_signed c .b2 rfl
  rw [pressX1, toInt_asr, toInt_mul_wrapS, toInt_pressSq, hb2, pX1]

/-- `x2` of the unit is that of R113. -/
theorem toInt_pressX2 (c : Cal) (b5 : Word) : (pressX2 c b5).toInt = pX2 c b5.toInt := by
  have hac2 : (c.value .ac2).toInt = sval c.ac2 := toInt_value_signed c .ac2 rfl
  rw [pressX2, toInt_asr, toInt_mul_wrapS, toInt_pressB6, hac2, pX2]

/-- `x3` of the unit is that of R113. -/
theorem toInt_pressX3 (c : Cal) (b5 : Word) : (pressX3 c b5).toInt = pX3 c b5.toInt := by
  rw [pressX3, toInt_add_wrapS, toInt_pressX1, toInt_pressX2, pX3]

/-- `b3` of the unit is that of R114. -/
theorem toInt_pressB3 (c : Cal) (oss : BitVec 2) (b5 : Word) :
    (pressB3 c oss b5).toInt = pB3 c oss.toNat b5.toInt := by
  have hac1 : (c.value .ac1).toInt = sval c.ac1 := toInt_value_signed c .ac1 rfl
  have h2 : (2 : Word).toInt = 2 := rfl
  have h4 : (4 : Word).toInt = 4 := rfl
  rw [pressB3, toInt_tdiv_wrapS, h4, wrapS_toInt_tdiv_four, toInt_add_wrapS, h2, toInt_shl_wrapS,
    toInt_add_wrapS, toInt_mul_wrapS, h4, toInt_pressX3, hac1, pB3]

/-- `x1b` of the unit is that of R115. -/
theorem toInt_pressX1b (c : Cal) (b5 : Word) : (pressX1b c b5).toInt = pX1b c b5.toInt := by
  have hac3 : (c.value .ac3).toInt = sval c.ac3 := toInt_value_signed c .ac3 rfl
  rw [pressX1b, toInt_asr, toInt_mul_wrapS, toInt_pressB6, hac3, pX1b]

/-- `x2b` of the unit is that of R115. -/
theorem toInt_pressX2b (c : Cal) (b5 : Word) : (pressX2b c b5).toInt = pX2b c b5.toInt := by
  have hb1 : (c.value .b1).toInt = sval c.b1 := toInt_value_signed c .b1 rfl
  rw [pressX2b, toInt_asr, toInt_mul_wrapS, toInt_pressSq, hb1, pX2b]

/-- `x3b` of the unit is that of R115. -/
theorem toInt_pressX3b (c : Cal) (b5 : Word) : (pressX3b c b5).toInt = pX3b c b5.toInt := by
  have h2 : (2 : Word).toInt = 2 := rfl
  rw [pressX3b, toInt_asr, toInt_add_wrapS, toInt_add_wrapS, toInt_pressX1b, toInt_pressX2b, h2, pX3b]

/-! ## The unsigned intermediates, R116 to R122 -/

/-- `m4` of the unit is that of R116. -/
theorem toNat_pressM4 (c : Cal) (b5 : Word) : ((pressM4 c b5).toNat : Int) = pM4 c b5.toInt := by
  have h8000 : ((0x8000 : Word).toNat : Int) = 0x8000 := rfl
  rw [pressM4, toNat_add_wrapU, toNat_eq_wrapU (pressX3b c b5), toInt_pressX3b, h8000, pM4]

/-- `b4` of the unit is that of R116. -/
theorem toNat_pressB4 (c : Cal) (b5 : Word) : ((pressB4 c b5).toNat : Int) = pB4 c b5.toInt := by
  have hac4 : ((c.value .ac4).toNat : Int) = uval c.ac4 :=
    congrArg _ (toNat_value_unsigned c .ac4 rfl)
  rw [pressB4, toNat_lsr_cast, toNat_mul_wrapU, toNat_pressM4, hac4, pB4]

/-- The unit's check for a zero divisor is that of R120. -/
theorem pressB4_eq_zero_iff (c : Cal) (b5 : Word) : pressB4 c b5 = 0 ↔ pB4 c b5.toInt = 0 := by
  rw [← toNat_pressB4, ← BitVec.toNat_inj, Int.natCast_eq_zero]
  rfl

/-- The unit's check of the difference is that of R118. -/
theorem toNat_lt_pressB3_iff (c : Cal) (oss : BitVec 2) (up b5 : Word) :
    up.toNat < (pressB3 c oss b5).toNat ↔ wrapU up.toInt < wrapU (pB3 c oss.toNat b5.toInt) := by
  rw [← toInt_pressB3, ← toNat_eq_wrapU, ← toNat_eq_wrapU, Nat.cast_lt]

/-- `scale` of the unit is that of R117. -/
theorem toNat_pressureScale (oss : BitVec 2) :
    ((pressureScale oss).toNat : Int) = 50000 / 2 ^ oss.toNat := by
  rw [pressureScale, toNat_lsr_cast]
  rfl

/-- `b7` of the unit is that of R119, for a difference that passes the check of R118. -/
theorem toNat_pressB7 (c : Cal) (oss : BitVec 2) (up b5 : Word)
    (hle : (pressB3 c oss b5).toNat ≤ up.toNat) :
    ((pressB7 oss (up - pressB3 c oss b5)).toNat : Int) = pB7 c oss.toNat up.toInt b5.toInt := by
  rw [pressB7, toNat_mul_wrapU, BitVec.toNat_sub_of_le hle, Nat.cast_sub hle, toNat_eq_wrapU up,
    toNat_eq_wrapU (pressB3 c oss b5), toInt_pressB3, toNat_pressureScale, pB7]

/-- The quotient of the unit is that of R121, in each of its two branches. -/
theorem toNat_pressP (b7 b4 : Word) : ((pressP b7 b4).toNat : Int) = pPu b7.toNat b4.toNat := by
  unfold pressP pPu
  by_cases hb7 : b7.toNat < 0x80000000
  · have hquot : b7.toNat * 2 / b4.toNat ≤ b7.toNat * 2 := Nat.div_le_self _ _
    rw [if_pos hb7, if_pos (by omega), toNat_doubledQuotient64 _ _ hb7]
    exact_mod_cast (wrapU_natCast (by omega)).symm
  · have h2 : ((2 : Word).toNat : Int) = 2 := rfl
    rw [if_neg hb7, if_neg (by omega), toNat_mul_wrapU, toNat_udiv, Int.natCast_ediv, h2]

/-- `p` of the unit is that of R122. -/
theorem toInt_pressP (b7 b4 : Word) : (pressP b7 b4).toInt = wrapS (pPu b7.toNat b4.toNat) := by
  rw [toInt_eq_wrapS_toNat, toNat_pressP]

/-! ## The pressure, R123 to R126 -/

/-- `pressure` of the unit is that of R124 to R126. -/
theorem toInt_pressTail (p y1sq : Word) : (pressTail p y1sq).toInt = pTail p.toInt y1sq.toInt := by
  have h3038 : (3038 : Word).toInt = 3038 := rfl
  have h7357 : (wrap32 (-7357)).toInt = -7357 := rfl
  have h3791 : (3791 : Word).toInt = 3791 := rfl
  rw [pressTail, toInt_add_wrapS, toInt_asr, toInt_add_wrapS, toInt_add_wrapS, pressY1, toInt_asr,
    toInt_mul_wrapS, h3038, pressY2, toInt_asr, toInt_mul_wrapS, h7357, h3791, pTail]

/-- From `p` on, the unit answers what R123 to R126 say: a square that passes its check is the
product of the rules, not wrapped. -/
theorem map_toInt_pressFromP (p : Word) : (pressFromP p).map BitVec.toInt = pFromP p.toInt := by
  have hps : (asr p 8).toInt = p.toInt / 2 ^ 8 := toInt_asr p 8
  have hnonneg : 0 ≤ p.toInt / 2 ^ 8 * (p.toInt / 2 ^ 8) := mul_self_nonneg _
  unfold pressFromP pFromP
  rcases hsquare : checkedMulS32 (asr p 8) (asr p 8) with _ | y1sq
  · have hover : 2 ^ 31 - 1 < p.toInt / 2 ^ 8 * (p.toInt / 2 ^ 8) := by
      by_contra hle
      rw [checkedMulS32_self_eq_some.mpr ⟨by rw [hps]; omega, rfl⟩] at hsquare
      cases hsquare
    rw [if_pos hover]
    rfl
  · obtain ⟨hle, rfl⟩ := checkedMulS32_self_eq_some.mp hsquare
    rw [hps] at hle ⊢
    rw [if_neg (by omega), Option.map_some, toInt_pressTail, ← bits, toInt_bits,
      wrapS_eq_self (by omega) hle]

/-- From a difference that passes its check on, the unit answers what R119 to R126 say. -/
theorem map_toInt_pressFromDq (c : Cal) (oss : BitVec 2) (up b5 : Word)
    (hle : (pressB3 c oss b5).toNat ≤ up.toNat) :
    (pressFromDq c oss b5 (up - pressB3 c oss b5)).map BitVec.toInt
      = if pB4 c b5.toInt = 0 then none
        else pFromP (wrapS (pPu (pB7 c oss.toNat up.toInt b5.toInt) (pB4 c b5.toInt))) := by
  unfold pressFromDq
  by_cases hzero : pressB4 c b5 = 0
  · rw [if_pos hzero, if_pos ((pressB4_eq_zero_iff c b5).mp hzero)]
    rfl
  · rw [if_neg hzero, if_neg (mt (pressB4_eq_zero_iff c b5).mpr hzero), map_toInt_pressFromP,
      toInt_pressP, toNat_pressB7 c oss up b5 hle, toNat_pressB4]

/-- The unit answers the pressure of the rules, and none exactly where they give none: its three checks
are those of R118, R120 and R123, in that order (R127). -/
theorem map_toInt_pressure (c : Cal) (oss : BitVec 2) (up b5 : Word) :
    (pressure c oss up b5).map BitVec.toInt = pressureRule c oss.toNat up.toInt b5.toInt := by
  have hcheck := toNat_lt_pressB3_iff c oss up b5
  unfold pressure pressureRule
  by_cases hsub : up.toNat < (pressB3 c oss b5).toNat
  · rw [checkedSubU32, if_pos hsub, if_pos (hcheck.mp hsub)]
    rfl
  · rw [checkedSubU32, if_neg hsub, if_neg (mt hcheck.mpr hsub)]
    exact map_toInt_pressFromDq c oss up b5 (Nat.le_of_not_lt hsub)

end Sys2Proof.Machine

namespace Sys2Proof
open Machine Rules

/-- Settles O24: the rules give a pressure, so the unit has one, which stands for that integer. -/
theorem compPAnswersThePressure : Obligations.CompPAnswersThePressure := by
  intro a b s p hrule
  rw [← map_toInt_pressure] at hrule
  obtain ⟨w, hw, rfl⟩ := Option.map_eq_some_iff.mp hrule
  rcases compP_effect a b s with ⟨hnone, -⟩ | ⟨v, hv, hnext⟩
  · simp [hnone] at hw
  · obtain rfl : v = w := Option.some.inj (hv.symm.trans hw)
    rw [exec_compP, hnext, bits_toInt]
    exact ⟨rfl, rfl⟩

/-- Settles O25: the rules give no pressure, so the unit has none. -/
theorem compPRaisesInvalidCalibration : Obligations.CompPRaisesInvalidCalibration := by
  intro a b s hrule
  rw [← map_toInt_pressure, Option.map_eq_none_iff] at hrule
  rcases compP_effect a b s with ⟨-, hnext⟩ | ⟨v, hv, -⟩
  · rw [exec_compP, hnext]
  · simp [hrule] at hv

end Sys2Proof
end

section
/-! PROOF. Configuration (spec/46_configuration.md R141): the two ends of `SET.SLP` exclude each other,
so the sign of the operand tells which one a step takes. -/

namespace Sys2Proof
open Machine

/-- Settles O38: of the two things a `SET.SLP` can do, the sign of `A` leaves one. -/
theorem setSlpAcceptsPositiveOnly : Obligations.SetSlpAcceptsPositiveOnly := by
  intro a b s
  rw [exec_setSlp]
  refine ⟨reqOpc_encode (.setSlp a b), fun hpos => ?_, fun hle => ?_⟩ <;>
    rcases setSlp_effect a s with ⟨hle', hnext⟩ | ⟨hpos', hnext⟩
  · omega
  · rw [hnext]
  · rw [hnext]
  · omega

end Sys2Proof
end

section
/-! PROOF. Decoding and encoding (spec/30_encoding.md R50, R52 to R55): a request is its three fields, and
the decoder and the encoder agree on each of them. -/

namespace Sys2Proof
open Machine

/-- The opcode and the operand fields of an operation decode to it (R52, R54). -/
theorem decodeFields_encodeOpc (i : Instr) :
    decodeFields (encodeOpc i) (operandA i) (operandB i) = .instr i := by
  cases i with
  | setOss l a b =>
    rcases level_cases l with rfl | rfl | rfl | rfl <;> simp [decodeFields, encodeOpc, operandA, operandB]
  | _ => simp [decodeFields, encodeOpc, operandA, operandB]

/-- The request an operation is encoded as decodes to it. -/
theorem decode_encode (i : Instr) : decode (encode i) = .instr i := by
  rw [decode, reqOpc_encode, reqA_encode, reqB_encode, decodeFields_encodeOpc]

/-- Settles O3: the fields of the encoded operation are its opcode and operands, which decode to it. -/
theorem decodeOfEncode : Obligations.DecodeOfEncode := fun i _ => decode_encode i

/-- Fields that decode are the fields of the operation they decode to (R52, R54). -/
theorem fields_of_decodeFields {opc : BitVec 8} {a b : Word} {i : Instr}
    (h : decodeFields opc a b = .instr i) : encodeOpc i = opc ∧ operandA i = a ∧ operandB i = b := by
  unfold decodeFields at h
  split_ifs at h with h10 h20 h21 h30 h31 h32 hprefix h50 <;> cases h
  · exact ⟨h10.symm, rfl, rfl⟩
  · exact ⟨h20.symm, rfl, rfl⟩
  · exact ⟨h21.symm, rfl, rfl⟩
  · exact ⟨h30.symm, rfl, rfl⟩
  · exact ⟨h31.symm, rfl, rfl⟩
  · exact ⟨h32.symm, rfl, rfl⟩
  · refine ⟨?_, rfl, rfl⟩
    have hparts := opcode_prefix_append_level opc
    rwa [hprefix] at hparts
  · exact ⟨h50.symm, rfl, rfl⟩

/-- A request that decodes is the request its operation is encoded as. -/
theorem encode_of_decode {w : Request} {i : Instr} (h : decode w = .instr i) : encode i = w := by
  obtain ⟨hopc, ha, hb⟩ := fields_of_decodeFields h
  rw [encode, hopc, ha, hb, request_fields]

/-- Settles O4: the operation has the request's own three fields, and those are the whole request. -/
theorem encodeOfDecode : Obligations.EncodeOfDecode := fun _ _ h => encode_of_decode h

/-- Every operation is encoded as a request of its own row (R52). -/
theorem rowsMatched_encode (i : Instr) : Laws.rowsMatched (encode i) = [mnemonicOf i] := by
  cases i with
  | calLoad a b => exact Laws.OneRow.calLoad a b
  | asmUt a b => exact Laws.OneRow.asmUt a b
  | asmUp a b => exact Laws.OneRow.asmUp a b
  | compT a b => exact Laws.OneRow.compT a b
  | compP a b => exact Laws.OneRow.compP a b
  | compAlt a b => exact Laws.OneRow.compAlt a b
  | setOss l a b => exact Laws.OneRow.setOss l a b
  | setSlp a b => exact Laws.OneRow.setSlp a b

/-- An opcode that is refused is none of the eleven of R52 (R55). -/
theorem ne_listed_of_illegalOp {opc o : BitVec 8} {a b : Word}
    (h : decodeFields opc a b = .illegalOp o) :
    opc ≠ 0x10 ∧ opc ≠ 0x20 ∧ opc ≠ 0x21 ∧ opc ≠ 0x30 ∧ opc ≠ 0x31 ∧ opc ≠ 0x32
      ∧ opc.extractLsb' 2 6 ≠ 0b010000 ∧ opc ≠ 0x50 := by
  unfold decodeFields at h
  split_ifs at h with h10 h20 h21 h30 h31 h32 hprefix h50
  exact ⟨h10, h20, h21, h30, h31, h32, hprefix, h50⟩

/-- The opcode bits the row of `SET.OSS` fixes are those the decoder tests (R54). -/
theorem and_fc_eq_iff (opc : BitVec 8) : opc &&& 0xFC = 0x40 ↔ opc.extractLsb' 2 6 = 0b010000 := by
  revert opc
  decide +kernel

/-- The mask of every other row keeps the whole opcode (R52). -/
theorem and_ff (opc : BitVec 8) : opc &&& 0xFF = opc := BitVec.and_allOnes

/-- A request with an illegal opcode matches no row of the table (R55). -/
theorem no_row_of_illegalOp {w : Request} {o : BitVec 8} (h : decode w = .illegalOp o) :
    (opcodeTable.filter fun r => r.matches w) = [] := by
  obtain ⟨h10, h20, h21, h30, h31, h32, hprefix, h50⟩ := ne_listed_of_illegalOp h
  have row (n : String) (m v : BitVec 8) (hne : reqOpc w &&& m ≠ v) :
      OpcodeRow.matches ⟨n, m ++ 0#32 ++ 0#32, v ++ 0#32 ++ 0#32⟩ w = false := by
    rw [← request_fields w, matches_opcode]
    exact beq_false_of_ne hne
  rw [List.filter_eq_nil_iff]
  intro r hr
  rw [Bool.not_eq_true]
  simp only [opcodeTable, List.mem_cons, List.not_mem_nil, or_false] at hr
  rcases hr with rfl | rfl | rfl | rfl | rfl | rfl | rfl | rfl
  · exact row _ 0xFF 0x10 (by rwa [and_ff])
  · exact row _ 0xFF 0x20 (by rwa [and_ff])
  · exact row _ 0xFF 0x21 (by rwa [and_ff])
  · exact row _ 0xFF 0x30 (by rwa [and_ff])
  · exact row _ 0xFF 0x31 (by rwa [and_ff])
  · exact row _ 0xFF 0x32 (by rwa [and_ff])
  · exact row _ 0xFC 0x40 (mt (and_fc_eq_iff _).mp hprefix)
  · exact row _ 0xFF 0x50 (by rwa [and_ff])

/-- Settles O5: a request that decodes is the encoding of its operation, which matches its own row; an
illegal opcode differs from every row in the bits the row fixes. -/
theorem decoderAgreesWithOpcodeTable : Obligations.DecoderAgreesWithOpcodeTable := by
  refine fun w => ⟨fun i h => ?_, fun opc h => no_row_of_illegalOp h⟩
  rw [← encode_of_decode h]
  exact rowsMatched_encode i

/-- The nibble checks accept exactly the opcodes the decoder does not refuse (R52, R54). -/
theorem legalOpc_iff : ∀ opc : BitVec 8, legalOpc opc = true ↔
    opc = 0x10 ∨ opc = 0x20 ∨ opc = 0x21 ∨ opc = 0x30 ∨ opc = 0x31 ∨ opc = 0x32
      ∨ opc.extractLsb' 2 6 = 0b010000 ∨ opc = 0x50 := by
  decide +kernel

/-- Settles O6: both the nibble checks and the decoder accept the eleven opcodes of R52. -/
theorem wellFormedIffDecodes : Obligations.WellFormedIffDecodes := by
  intro w
  have hlegal : Request.wellFormed w = legalOpc (reqOpc w) := rfl
  rw [hlegal, legalOpc_iff]
  constructor
  · intro hopc
    rcases hw : decode w with i | o
    · exact ⟨i, rfl⟩
    · have := ne_listed_of_illegalOp hw
      tauto
  · rintro ⟨i, hi⟩
    rw [← (fields_of_decodeFields hi).1]
    cases i with
    | setOss l a b => rcases level_cases l with rfl | rfl | rfl | rfl <;> simp [encodeOpc]
    | _ => simp [encodeOpc]

/-- Settles O1: eight closed words, decoded. -/
theorem tabledWordsDecode : Obligations.TabledWordsDecode := by
  unfold Obligations.TabledWordsDecode
  decide

end Sys2Proof
end

section
/-! PROOF. The operations: everything one operation can have done, said once as a relation between the
state before and the state after, and the statements about all operations read off it. -/

namespace Sys2Proof.Machine

/-- Everything an operation can do to a state, one constructor for each end of each operation. -/
inductive Effect (s : State) : Instr → State → Prop
  /-- `CAL.LOAD` with all its reads succeeding (R80, R84) -/
  | calLoadOk (a b : Word) (ws : List Half) : Effect s (.calLoad a b)
      { s.advance (recordOk s.cfg.busAddr (pairsReads s.cfg.fetchMode calIndices)) with
        cal := Cal.ofWords ws
        calv := true
        response := some ⟨.ok, none, none, none⟩ }
  /-- `CAL.LOAD` whose read number `k` fails (R85) -/
  | calLoadErr (a b : Word) (e : BusErr) (k : Nat)
      (hk : k < (pairsReads s.cfg.fetchMode calIndices).length) : Effect s (.calLoad a b)
      { s.advance (recordErr s.cfg.busAddr (pairsReads s.cfg.fetchMode calIndices) k) with
        response := some ⟨.busError, none, none, some e⟩ }
  /-- `ASM.UT` (R90) -/
  | asmUt (a b q : Word) : Effect s (.asmUt a b) { s with response := some ⟨.ok, some q, none, none⟩ }
  /-- `ASM.UP` (R91) -/
  | asmUp (a b q : Word) : Effect s (.asmUp a b) { s with response := some ⟨.ok, some q, none, none⟩ }
  /-- `COMP.T` with a divisor that is not zero (R106) -/
  | compTOk (a b q0 q1 : Word) : Effect s (.compT a b)
      { s with response := some ⟨.ok, some q0, some q1, none⟩ }
  /-- `COMP.T` with a divisor that is zero (R102) -/
  | compTErr (a b : Word) : Effect s (.compT a b)
      { s with response := some ⟨.tempDivZero, none, none, none⟩ }
  /-- `COMP.P` that passes its checks (R126) -/
  | compPOk (a b q : Word) : Effect s (.compP a b)
      { s with response := some ⟨.ok, some q, none, none⟩ }
  /-- `COMP.P` that fails one of its checks (R127) -/
  | compPErr (a b : Word) : Effect s (.compP a b)
      { s with response := some ⟨.invalidCalibration, none, none, none⟩ }
  /-- `COMP.ALT` (R130) -/
  | compAlt (a b q : Word) : Effect s (.compAlt a b)
      { s with draws := s.draws + 3, response := some ⟨.ok, some q, none, none⟩ }
  /-- `SET.OSS` (R140) -/
  | setOss (l : BitVec 2) (a b : Word) : Effect s (.setOss l a b)
      { s with oss := l, response := some ⟨.ok, none, none, none⟩ }
  /-- `SET.SLP` of a positive reference (R141) -/
  | setSlpOk (a b : Word) : Effect s (.setSlp a b)
      { s with slp := a, response := some ⟨.ok, none, none, none⟩ }
  /-- `SET.SLP` of any other reference (R141) -/
  | setSlpErr (a b : Word) : Effect s (.setSlp a b)
      { s with response := some ⟨.rejected, none, none, none⟩ }

/-- An operation answers a next state, which is one of those of `Effect`. -/
theorem exec_effect (i : Instr) (s : State) : ∃ t, exec i s = .next t ∧ Effect s i t := by
  cases i with
  | calLoad a b =>
    refine ⟨_, exec_calLoad a b s, ?_⟩
    rcases calLoad_cases s with ⟨ws, hnext⟩ | ⟨e, k, hk, hnext⟩ <;> rw [hnext]
    · exact .calLoadOk a b ws
    · exact .calLoadErr a b e k hk
  | asmUt a b => exact ⟨_, exec_asmUt a b s, .asmUt a b _⟩
  | asmUp a b => exact ⟨_, exec_asmUp a b s, .asmUp a b _⟩
  | compT a b =>
    refine ⟨_, exec_compT a b s, ?_⟩
    rcases compT_effect a s with ⟨-, hnext⟩ | ⟨-, hnext⟩ <;> rw [hnext]
    · exact .compTErr a b
    · exact .compTOk a b _ _
  | compP a b =>
    refine ⟨_, exec_compP a b s, ?_⟩
    rcases compP_effect a b s with ⟨-, hnext⟩ | ⟨p, -, hnext⟩ <;> rw [hnext]
    · exact .compPErr a b
    · exact .compPOk a b p
  | compAlt a b => exact ⟨_, exec_compAlt a b s, .compAlt a b _⟩
  | setOss l a b => exact ⟨_, exec_setOss l a b s, .setOss l a b⟩
  | setSlp a b =>
    refine ⟨_, exec_setSlp a b s, ?_⟩
    rcases setSlp_effect a s with ⟨-, hnext⟩ | ⟨-, hnext⟩ <;> rw [hnext]
    · exact .setSlpErr a b
    · exact .setSlpOk a b

/-- What an operation has done is one of the things `Effect` lists. -/
theorem effect_of_exec {i : Instr} {s t : State} (h : exec i s = .next t) : Effect s i t := by
  obtain ⟨t', hnext, heffect⟩ := exec_effect i s
  obtain rfl : t' = t := by simpa [hnext] using h
  exact heffect

/-! ## What an operation reads of the state -/

/-- A read of the bus does not look at the level. -/
theorem memRead_setOss {addr : Byte} {n : Nat} {s s1 : State} {r : Except BusErr (List Byte)}
    (l : BitVec 2) (h : memRead addr n s = (r, s1)) :
    memRead addr n (s.setOss l) = (r, s1.setOss l) := by
  cases h
  rfl

/-- A fetch does not look at the level. -/
theorem fetchPair_setOss {i : Nat} {s s1 : State} {r : Except BusErr Half} (l : BitVec 2)
    (h : fetchPair i s = (r, s1)) : fetchPair i (s.setOss l) = (r, s1.setOss l) := by
  unfold fetchPair at h ⊢
  rw [State.setOss_cfg]
  rcases hmode : s.cfg.fetchMode with _ | _ <;> rw [hmode] at h <;> dsimp only at h ⊢
  · unfold fetchBytewise at h ⊢
    rcases hhigh : memRead (calAddr i) 1 s with ⟨_ | _, s2⟩ <;> rw [hhigh] at h <;>
      rw [memRead_setOss l hhigh] <;> dsimp only at h ⊢
    · cases h
      rfl
    · rcases hlow : memRead (calAddr i + 1) 1 s2 with ⟨_ | _, s3⟩ <;> rw [hlow] at h <;>
        rw [memRead_setOss l hlow] <;> cases h <;> rfl
  · unfold fetchPairwise at h ⊢
    rcases hpair : memRead (calAddr i) 2 s with ⟨_ | _, s2⟩ <;> rw [hpair] at h <;>
      rw [memRead_setOss l hpair] <;> cases h <;> rfl

/-- A sequence of fetches does not look at the level. -/
theorem fetchAll_setOss {is : List Nat} {s s1 : State} {r : Except BusErr (List Half)} (l : BitVec 2)
    (h : fetchAll is s = (r, s1)) : fetchAll is (s.setOss l) = (r, s1.setOss l) := by
  induction is generalizing s s1 r with
  | nil =>
    cases h
    rfl
  | cons i is ih =>
    unfold fetchAll at h ⊢
    rcases hfirst : fetchPair i s with ⟨_ | _, s2⟩ <;> rw [hfirst] at h <;>
      rw [fetchPair_setOss l hfirst] <;> dsimp only at h ⊢
    · cases h
      rfl
    · rcases hrest : fetchAll is s2 with ⟨_ | _, s3⟩ <;> rw [hrest] at h <;>
        rw [ih hrest] <;> cases h <;> rfl

/-- A `CAL.LOAD` does not look at the level. -/
theorem calLoadEnd_setOss (l : BitVec 2) (s : State) :
    calLoadEnd (fetchAll calIndices (s.setOss l))
      = (calLoadEnd (fetchAll calIndices s)).setOss l := by
  rcases hfetch : fetchAll calIndices s with ⟨_ | _, s1⟩ <;> rw [fetchAll_setOss l hfetch] <;> rfl

/-- A `COMP.T` does not look at the level. -/
theorem compTNext_setOss (ut : Word) (l : BitVec 2) (s : State) :
    compTNext ut (s.setOss l) = (compTNext ut s).setOss l := by
  unfold compTNext
  rw [State.setOss_cal]
  split <;> rfl

/-- A `SET.SLP` does not look at the level. -/
theorem setSlpNext_setOss (pa : Word) (l : BitVec 2) (s : State) :
    setSlpNext pa (s.setOss l) = (setSlpNext pa s).setOss l := by
  unfold setSlpNext
  split <;> rfl

/-- The sixteen low bits of `A` hold both bytes of `ASM.UT` (R53). -/
theorem bytes_of_low16 {a a' : Word} (h : a.extractLsb' 0 16 = a'.extractLsb' 0 16) :
    byte0 a = byte0 a' ∧ byte1 a = byte1 a' := by
  have hbyte (x : Word) : byte0 x = (x.extractLsb' 0 16).extractLsb' 0 8
      ∧ byte1 x = (x.extractLsb' 0 16).extractLsb' 8 8 := by
    constructor <;> ext i hi <;> simp [byte0, byte1]
  rw [(hbyte a).1, (hbyte a).2, h, ← (hbyte a').1, ← (hbyte a').2]
  exact ⟨rfl, rfl⟩

/-- The twenty-four low bits of `A` hold the three bytes of `ASM.UP` (R53). -/
theorem bytes_of_low24 {a a' : Word} (h : a.extractLsb' 0 24 = a'.extractLsb' 0 24) :
    byte0 a = byte0 a' ∧ byte1 a = byte1 a' ∧ byte2 a = byte2 a' := by
  have hbyte (x : Word) : byte0 x = (x.extractLsb' 0 24).extractLsb' 0 8
      ∧ byte1 x = (x.extractLsb' 0 24).extractLsb' 8 8
      ∧ byte2 x = (x.extractLsb' 0 24).extractLsb' 16 8 := by
    refine ⟨?_, ?_, ?_⟩ <;> ext i hi <;> simp [byte0, byte1, byte2]
  obtain ⟨h0, h1, h2⟩ := hbyte a
  obtain ⟨h0', h1', h2'⟩ := hbyte a'
  rw [h0, h1, h2, h, ← h0', ← h1', ← h2']
  exact ⟨rfl, rfl, rfl⟩

/-! ## The responses of the unit -/

/-- A response is sound when it is `OK` without a failure. -/
theorem Response.sound_ok (q0 q1 : Option Word) : Response.sound ⟨.ok, q0, q1, none⟩ := by
  simp [Response.sound]

/-- A response that reports an outcome is sound, if the failure is there exactly with `BUS_ERROR` and
the outcome is not the host's own `INVALID_DEVICE_ID` (R51, R172). -/
theorem Response.sound_raised {st : Status} {info : Option BusErr}
    (hinfo : info.isSome ↔ st = .busError) (hst : st ≠ .invalidDeviceId) :
    Response.sound ⟨st, none, none, info⟩ :=
  ⟨fun _ => ⟨rfl, rfl⟩, hinfo, hst⟩

/-- An operation answers with a sound response (R51, R170, R172). -/
theorem Effect.response_sound {s t : State} {i : Instr} (h : Effect s i t) :
    ∃ r, t.response = some r ∧ r.sound := by
  cases h with
  | calLoadOk | asmUt | asmUp | compTOk | compPOk | compAlt | setOss | setSlpOk =>
    exact ⟨_, rfl, Response.sound_ok _ _⟩
  | calLoadErr | compTErr | compPErr | setSlpErr =>
    exact ⟨_, rfl, Response.sound_raised (by simp) (by simp)⟩

/-- The coefficients an operation leaves: those it found, unless it sets `CALV` (R84). -/
theorem Effect.cal_or_calv {s t : State} {i : Instr} (h : Effect s i t) :
    (t.cal = s.cal ∧ t.calv = s.calv) ∨ t.calv = true := by
  cases h with
  | calLoadOk => exact .inr rfl
  | _ => exact .inl ⟨rfl, rfl⟩

end Sys2Proof.Machine

namespace Sys2Proof
open Machine Rules

/-- Settles O7: a step of the unit is the operation with the port freed. -/
theorem stepRunsThePendingRequest : Obligations.StepRunsThePendingRequest := by
  intro s w i hw hdecode
  rw [step_pending hw, acceptRequest_instr hdecode]
  rfl

/-- Settles O8: an opcode that is not listed is refused by the decoder, whose refusal is answered. -/
theorem illegalOpcodeAnswersIllegalOp : Obligations.IllegalOpcodeAnswersIllegalOp := by
  intro s w hw hopc
  rw [step_pending hw, acceptRequest]
  rcases hdecode : decode w with i | o
  · rw [← encode_of_decode hdecode, reqOpc_encode] at hopc
    cases i with
    | setOss l a b => rcases level_cases l with rfl | rfl | rfl | rfl <;> simp [encodeOpc] at hopc
    | _ => simp [encodeOpc] at hopc
  · rfl

/-- Settles O9: each arm of the dispatch answers a next state. -/
theorem everyOperationCompletes : Obligations.EveryOperationCompletes := fun i s =>
  let ⟨t, hnext, _⟩ := exec_effect i s
  ⟨t, hnext⟩

/-- Settles O10: an operation reads the bytes or the word of `A` it uses, and nothing else of its
operands. -/
theorem ignoredOperandsDoNotMatter : Obligations.IgnoredOperandsDoNotMatter := by
  refine fun a a' b b' l s => ⟨rfl, fun h => ?_, fun h => ?_, rfl, rfl, rfl, rfl⟩
  · obtain ⟨h0, h1⟩ := bytes_of_low16 h
    rw [exec_asmUt, exec_asmUt, h0, h1]
  · obtain ⟨h0, h1, h2⟩ := bytes_of_low24 h
    rw [exec_asmUp, exec_asmUp, h0, h1, h2]

/-- Settles O36: the opcode is `0x40` with the level in its two low bits. -/
theorem setOssWritesTheLevel : Obligations.SetOssWritesTheLevel := by
  intro l a b s
  refine ⟨?_, by rw [exec_setOss, respondOk_eq]; rfl⟩
  rw [reqOpc_encode, encodeOpc]
  rcases level_cases l with rfl | rfl | rfl | rfl <;> decide

/-- Settles O37: an operation that is none of the three does the same at every level. -/
theorem levelIsReadByTwoOperationsOnly : Obligations.LevelIsReadByTwoOperationsOnly := by
  intro i l s t hasmUp hcompP hsetOss hnext
  change exec i (s.setOss l) = .next (t.setOss l)
  cases i with
  | asmUp a b => exact absurd rfl (hasmUp a b)
  | compP a b => exact absurd rfl (hcompP a b)
  | setOss l' a b => exact absurd rfl (hsetOss l' a b)
  | calLoad a b =>
    cases hnext
    rw [exec_calLoad, calLoadEnd_setOss]
  | compT a b =>
    cases hnext
    rw [exec_compT, compTNext_setOss]
  | setSlp a b =>
    cases hnext
    rw [exec_setSlp, setSlpNext_setOss]
  | asmUt a b =>
    cases hnext
    rfl
  | compAlt a b =>
    cases hnext
    rfl

/-- Settles O39: of all ends of all operations, one writes `CAL` and `CALV`, one `OSS` and one `SLP`. -/
theorem eachRegisterHasOneWriter : Obligations.EachRegisterHasOneWriter := by
  intro i s t hnext
  cases effect_of_exec hnext with
  | calLoadOk a b =>
    exact ⟨rfl, fun _ => ⟨a, b, rfl⟩, fun _ => rfl, absurd rfl, absurd rfl⟩
  | setOss l a b =>
    exact ⟨rfl, fun hne => hne.elim (absurd rfl) (absurd rfl), id, fun _ => ⟨l, a, b, rfl, rfl⟩,
      absurd rfl⟩
  | setSlpOk a b =>
    exact ⟨rfl, fun hne => hne.elim (absurd rfl) (absurd rfl), id, absurd rfl,
      fun _ => ⟨a, b, rfl, rfl⟩⟩
  | _ => exact ⟨rfl, fun hne => hne.elim (absurd rfl) (absurd rfl), id, absurd rfl, absurd rfl⟩

/-- Settles O40: of all ends of all operations, those of `CAL.LOAD` alone extend the record. -/
theorem operationsLeaveTheEnvironmentAlone : Obligations.OperationsLeaveTheEnvironmentAlone := by
  intro i s t hnext
  cases effect_of_exec hnext with
  | calLoadOk a b | calLoadErr a b =>
    exact ⟨rfl, rfl, fun hne => absurd rfl (hne a b), fun hne => absurd rfl (hne a b)⟩
  | compAlt a b => exact ⟨rfl, rfl, fun _ => ⟨rfl, rfl⟩, fun _ hne => absurd rfl (hne a b)⟩
  | _ => exact ⟨rfl, rfl, fun _ => ⟨rfl, rfl⟩, fun _ _ => rfl⟩

/-- Settles O41: the ends that are not `OK` write the response only, and `CAL.LOAD` the record. -/
theorem nonOkOutcomeLeavesTheUnitUntouched : Obligations.NonOkOutcomeLeavesTheUnitUntouched := by
  intro i s t r hnext hr hst
  have heffect := effect_of_exec hnext
  obtain ⟨r', hr', hsound, hberr, -⟩ := heffect.response_sound
  obtain rfl : r' = r := Option.some.inj (hr'.symm.trans hr)
  refine ⟨(hsound hst).1, (hsound hst).2, hberr, ?_⟩
  cases heffect with
  | calLoadErr | compTErr | compPErr | setSlpErr => exact ⟨rfl, rfl, rfl, rfl, rfl⟩
  | _ => exact absurd (by cases hr; rfl) hst

/-- Settles O42: the status of each end of each operation. -/
theorem outcomesOfEachOperation : Obligations.OutcomesOfEachOperation := by
  intro i s t hnext
  cases effect_of_exec hnext with
  | calLoadErr | compTErr | compPErr | setSlpErr => exact ⟨_, rfl, by simp⟩
  | _ => exact ⟨_, rfl, .inl rfl⟩

/-- Settles O43: a closed table of seven codes, evaluated. -/
theorem statusCodes : Obligations.StatusCodes := by
  refine ⟨rfl, rfl, rfl, rfl, rfl, rfl, rfl, fun st => ?_⟩
  cases st <;> decide

/-- Settles O59: the four control bytes, evaluated. -/
theorem controlBytes : Obligations.ControlBytes := by
  unfold Obligations.ControlBytes
  decide

/-- Settles O58: presenting looks at the request port only. -/
theorem secondRequestIsRefused : Obligations.SecondRequestIsRefused := by
  refine fun w s => ⟨fun hpending => ?_, fun hfree => present_free hfree w⟩
  obtain ⟨w', hw'⟩ := Option.ne_none_iff_exists'.mp hpending
  rw [present, hw']

/-- Settles O44: the fields of a state just constructed. -/
theorem resetValues : Obligations.ResetValues :=
  ⟨fun _ => ⟨rfl, rfl, rfl, rfl, rfl, rfl, rfl, rfl⟩, rfl⟩

/-- Settles O46: no response is there and the coefficients are zero. -/
theorem resetIsSound : Obligations.ResetIsSound := fun _ => ⟨fun _ h => (nomatch h), fun _ => rfl⟩

end Sys2Proof
end

section
/-! PROOF. The step (spec/20_memory.md R41, spec/47_host_sequences.md R150): everything one statement of
the host and one step of the machine can have done, each said once as a relation between the state before
and the state after, and the invariants of the ports read off it. -/

namespace Sys2Proof.Machine
open Rules

/-- Everything a statement of the host can do to a state whose request port is free. -/
inductive StmtEffect (s : State) : Stmt → State → Prop
  | busWrOk (addr byte : Byte) : StmtEffect s (.busWr addr byte)
      (transact (.write s.cfg.busAddr addr [byte] true) s)
  | busWrErr (addr byte : Byte) (e : BusErr) : StmtEffect s (.busWr addr byte)
      (endSequence (.err .busError (some e)) (transact (.write s.cfg.busAddr addr [byte] false) s))
  | busWrPressureOk : StmtEffect s .busWrPressure
      (transact (.write s.cfg.busAddr regCtrlMeas [controlPressure s.oss] true) s)
  | busWrPressureErr (e : BusErr) : StmtEffect s .busWrPressure
      (endSequence (.err .busError (some e))
        (transact (.write s.cfg.busAddr regCtrlMeas [controlPressure s.oss] false) s))
  | busRdOk (addr : Byte) (n : Nat) (hn : n ≠ 0) (bytes : List Byte) : StmtEffect s (.busRd addr n)
      (setVars { s.host.vars with read := bytes } (transact (.read s.cfg.busAddr addr n true) s))
  | busRdErr (addr : Byte) (n : Nat) (e : BusErr) (hn : n ≠ 0) : StmtEffect s (.busRd addr n)
      (endSequence (.err .busError (some e)) (transact (.read s.cfg.busAddr addr n false) s))
  | wait (us : Nat) : StmtEffect s (.wait us) (s.logEvent (.wait us))
  | waitPressure : StmtEffect s .waitPressure (s.logEvent (.wait (pressureWait s.oss)))
  | checkId (e : HostEnd) (n : Nat) : StmtEffect s .checkId (endSequence e (s.draw n))
  | request (src : ReqSource) (w : Request) (n : Nat)
      (hw : requestWord src (heldByte s) s.host.vars = some w) : StmtEffect s (.request src)
      { s.draw n with
        request := some w
        response := none
        host := { s.host with awaiting := some src } }
  | endOk (r : ResultVar) (v : Option Word) : StmtEffect s (.endOk r) (endSequence (.ok v) s)

/-- What a statement has done is one of the things `StmtEffect` lists. -/
theorem stmtEffect_of_runStmt {st : Stmt} {s t : State} (hfree : s.request = none)
    (h : runStmt st s = .next t) : StmtEffect s st t := by
  cases st with
  | busWr addr byte =>
    simp only [runStmt] at h
    split_ifs at h
    rcases memWrite_cases addr [byte] s with hwrite | ⟨e, hwrite⟩ <;> rw [hwrite] at h <;> cases h
    · exact .busWrOk addr byte
    · exact .busWrErr addr byte e
  | busWrPressure =>
    simp only [runStmt] at h
    rcases memWrite_cases regCtrlMeas [controlPressure s.oss] s with hwrite | ⟨e, hwrite⟩ <;>
      rw [hwrite] at h <;> cases h
    · exact .busWrPressureOk
    · exact .busWrPressureErr e
  | busRd addr n =>
    simp only [runStmt] at h
    split_ifs at h with hn
    rcases memRead_cases addr n s with ⟨bytes, -, hread⟩ | ⟨e, hread⟩ <;> rw [hread] at h <;> cases h
    · exact .busRdOk addr n hn bytes
    · exact .busRdErr addr n e hn
  | wait us =>
    cases h
    exact .wait us
  | waitPressure =>
    cases h
    exact .waitPressure
  | checkId =>
    simp only [runStmt, useHeld_draw] at h
    cases h
    exact .checkId _ _
  | request src =>
    simp only [runStmt] at h
    split at h
    next w hw =>
      rw [useHeld_draw, issue_free (by simpa using hfree)] at h
      cases h
      exact .request src w _ hw
    next => cases h
  | endOk r =>
    simp only [runStmt] at h
    split at h <;> cases h
    exact .endOk r _

/-- Everything a step of the machine can do: the unit's turn, and the host's. -/
inductive StepEffect (s : State) : State → Prop
  /-- the unit executes the pending request -/
  | unit {w : Request} {i : Instr} {t : State} (hw : s.request = some w) (hdecode : decode w = .instr i)
      (heffect : Effect (s.setRequest none) i t) : StepEffect s t
  /-- the unit refuses the pending request (R55) -/
  | illegal {w : Request} {o : BitVec 8} (hw : s.request = some w) (hdecode : decode w = .illegalOp o) :
      StepEffect s (raiseIllegalOp (s.setRequest none))
  /-- the host takes the response it waits for -/
  | take {src : ReqSource} {r : Response} (hfree : s.request = none)
      (hwait : s.host.awaiting = some src) (hr : s.response = some r) :
      StepEffect s (takeResponse src r s)
  /-- the host executes its next statement -/
  | stmt {st : Stmt} {rest : List Stmt} {t : State} (hfree : s.request = none)
      (hwait : s.host.awaiting = none) (htodo : s.host.todo = st :: rest)
      (heffect : StmtEffect (s.setHost { s.host with todo := rest }) st t) : StepEffect s t
  /-- the host begins its next sequence -/
  | begin {c : HostCall} {cs : List HostCall} (hfree : s.request = none)
      (hwait : s.host.awaiting = none) (htodo : s.host.todo = []) (hcalls : s.host.calls = c :: cs) :
      StepEffect s (beginCall c (s.setHost { s.host with calls := cs }))
  /-- the host has nothing to do -/
  | idle : StepEffect s s

/-- What a step has done is one of the things `StepEffect` lists. -/
theorem stepEffect_of_step {s t : State} (h : step s = .next t) : StepEffect s t := by
  rcases hw : s.request with _ | w
  · rw [step_host hw] at h
    rcases hwait : s.host.awaiting with _ | src
    · rcases htodo : s.host.todo with _ | ⟨st, rest⟩
      · rcases hcalls : s.host.calls with _ | ⟨c, cs⟩
        · rw [hostStep_idle hwait htodo hcalls] at h
          cases h
          exact .idle
        · rw [hostStep_begin hwait htodo hcalls] at h
          cases h
          exact .begin hw hwait htodo hcalls
      · rw [hostStep_stmt hwait htodo] at h
        exact .stmt hw hwait htodo (stmtEffect_of_runStmt hw h)
    · rcases hr : s.response with _ | r
      · simp [hostStep, hwait, hr] at h
      · rw [hostStep_take hwait hr] at h
        cases h
        exact .take hw hwait hr
  · rw [step_pending hw] at h
    rcases hdecode : decode w with i | o
    · rw [acceptRequest_instr hdecode] at h
      exact .unit hw hdecode (effect_of_exec h)
    · simp only [acceptRequest, hdecode] at h
      cases h
      exact .illegal hw hdecode

/-- A statement leaves the unit's registers alone. -/
theorem StmtEffect.sameUnit {s t : State} {st : Stmt} (h : StmtEffect s st t) : SameUnit s t := by
  cases h <;> exact ⟨rfl, rfl, rfl, rfl, rfl⟩

/-- A statement leaves the sequences to come alone. -/
theorem StmtEffect.calls_eq {s t : State} {st : Stmt} (h : StmtEffect s st t) :
    t.host.calls = s.host.calls := by
  cases h <;> rfl

/-- A statement leaves the two ports alone, but for a request, which it presents, and then the host
waits. -/
theorem StmtEffect.ports {s t : State} {st : Stmt} (h : StmtEffect s st t) :
    (t.request = s.request ∧ t.response = s.response
        ∧ (t.host.awaiting = s.host.awaiting ∨ t.host.awaiting = none))
      ∨ (t.request ≠ none ∧ t.response = none) := by
  cases h with
  | request => exact .inr ⟨Option.some_ne_none _, rfl⟩
  | busWrErr | busWrPressureErr | busRdErr | checkId | endOk => exact .inl ⟨rfl, rfl, .inr rfl⟩
  | _ => exact .inl ⟨rfl, rfl, .inl rfl⟩

/-- An operation leaves the host and the request port alone. -/
theorem Effect.host_eq {s t : State} {i : Instr} (h : Effect s i t) :
    t.host = s.host ∧ t.request = s.request := by
  cases h <;> exact ⟨rfl, rfl⟩

/-- A sequence begun leaves the ports alone, but for `NEW`, which empties them (R151). -/
theorem beginCall_ports (c : HostCall) (s : State) :
    ((beginCall c s).response = s.response ∧ (beginCall c s).cal = s.cal
        ∧ (beginCall c s).calv = s.calv ∧ (beginCall c s).host.awaiting = s.host.awaiting)
      ∨ ((beginCall c s).response = none ∧ (beginCall c s).cal = Cal.zero
        ∧ (beginCall c s).host.awaiting = none) := by
  cases c with
  | new cfg => exact .inr ⟨rfl, rfl, rfl⟩
  | _ => exact .inl ⟨rfl, rfl, rfl, rfl⟩

/-- A state is sound when its response is, and its coefficients are those of a sound state. -/
theorem UnitSound.of_cal {s t : State} (hs : UnitSound s)
    (hresponse : ∀ r, t.response = some r → r.sound) (hcal : t.cal = s.cal) (hcalv : t.calv = s.calv) :
    UnitSound t :=
  ⟨hresponse, fun hzero => hcal.trans (hs.2 (hcalv.symm.trans hzero))⟩

/-- What the host does to the ports and the coefficients keeps the unit sound: the response stays or
goes. -/
theorem UnitSound.of_sameUnit {s t : State} (hs : UnitSound s) (hsame : SameUnit s t)
    (hresponse : t.response = s.response ∨ t.response = none) : UnitSound t := by
  obtain ⟨-, hcal, -, -, hcalv⟩ := hsame
  refine hs.of_cal (fun r hr => ?_) hcal hcalv
  rcases hresponse with hresponse | hresponse <;> rw [hresponse] at hr
  · exact hs.1 r hr
  · cases hr

/-- Taking a response leaves the unit's registers alone. -/
theorem takeResponse_sameUnit (src : ReqSource) (r : Response) (s : State) :
    SameUnit s (takeResponse src r s) := by
  rw [takeResponse_eq]
  exact ⟨rfl, rfl, rfl, rfl, rfl⟩

end Sys2Proof.Machine

namespace Sys2Proof
open Machine Rules

/-- Settles O45: the unit's turn gives a sound response and writes coefficients with `CALV` only; the
host's turn keeps the response or takes it away, and writes coefficients in `NEW` only, as zero. -/
theorem stepKeepsTheUnitSound : Obligations.StepKeepsTheUnitSound := by
  intro s t hs hstep
  cases stepEffect_of_step hstep with
  | unit _ _ heffect =>
    obtain ⟨r, hr, hsound⟩ := heffect.response_sound
    have hresponse : ∀ r', t.response = some r' → r'.sound := fun r' hr' =>
      Option.some.inj (hr.symm.trans hr') ▸ hsound
    rcases heffect.cal_or_calv with ⟨hcal, hcalv⟩ | hcalv
    · exact hs.of_cal hresponse hcal hcalv
    · exact ⟨hresponse, fun hzero => absurd (hcalv.symm.trans hzero) (by decide)⟩
  | illegal =>
    refine hs.of_cal (fun r hr => ?_) rfl rfl
    cases hr
    exact Response.sound_raised (by simp) (by simp)
  | take =>
    refine hs.of_sameUnit (takeResponse_sameUnit _ _ _) (.inr ?_)
    rw [takeResponse_eq]
  | stmt _ _ _ heffect =>
    refine hs.of_sameUnit heffect.sameUnit ?_
    rcases heffect.ports with ⟨-, hresponse, -⟩ | ⟨-, hresponse⟩
    · exact .inl hresponse
    · exact .inr hresponse
  | @begin c cs =>
    rcases beginCall_ports c (s.setHost { s.host with calls := cs }) with
      ⟨hresponse, hcal, hcalv, -⟩ | ⟨hresponse, hcal, -⟩
    · exact hs.of_cal (fun r hr => hs.1 r (hresponse.symm.trans hr)) hcal hcalv
    · exact ⟨fun r hr => (nomatch hresponse.symm.trans hr), fun _ => hcal⟩
  | idle => exact hs

/-- A statement of the host never faults: it answers a next state or is refused. -/
theorem runStmt_ne_fault (st : Stmt) (s : State) (f : Fault) : runStmt st s ≠ .fault f := by
  cases st with
  | request src =>
    simp only [runStmt, issue, present]
    split
    · split <;> simp
    · simp
  | busWr | busRd | endOk =>
    simp only [runStmt]
    split <;> simp
  | _ => simp [runStmt]

/-- The unit answers a next state to every request. -/
theorem acceptRequest_next (w : Request) (s : State) : ∃ t, acceptRequest w s = .next t := by
  rcases hdecode : decode w with i | o
  · obtain ⟨t, hnext, -⟩ := exec_effect i (s.setRequest none)
    exact ⟨t, (acceptRequest_instr hdecode).trans hnext⟩
  · exact ⟨raiseIllegalOp (s.setRequest none), by simp only [acceptRequest, hdecode]⟩

/-- Under `HostServed` the one faulting state, a host that waits with nothing to come, is shut out. -/
theorem step_ne_fault {s : State} (hserved : HostServed s) (f : Fault) : step s ≠ .fault f := by
  rcases hw : s.request with _ | w
  · rw [step_host hw]
    rcases hwait : s.host.awaiting with _ | src
    · rcases htodo : s.host.todo with _ | ⟨st, rest⟩
      · simp only [hostStep, hwait, htodo]
        split <;> simp
      · rw [hostStep_stmt hwait htodo]
        exact runStmt_ne_fault _ _ f
    · have hresponse : s.response ≠ none := (hserved (by simp [hwait])).resolve_left (not_not.mpr hw)
      obtain ⟨r, hr⟩ := Option.ne_none_iff_exists'.mp hresponse
      simp [hostStep_take hwait hr]
  · obtain ⟨t, hnext⟩ := acceptRequest_next w s
    simp [step_pending hw, hnext]

/-- Settles O47: a step of the unit leaves a response; a step of the host that begins to wait leaves a
request, and no other step begins to wait. -/
theorem hostIsNeverBlocked : Obligations.HostIsNeverBlocked := by
  refine fun s hserved => ⟨step_ne_fault hserved, fun t hstep => ?_⟩
  cases stepEffect_of_step hstep with
  | unit _ _ heffect =>
    obtain ⟨r, hr, -⟩ := heffect.response_sound
    exact fun _ => .inr (by simp [hr])
  | illegal => exact fun _ => .inr (Option.some_ne_none _)
  | take =>
    refine fun hwaits => absurd ?_ hwaits
    rw [takeResponse_eq]
    split <;> rfl
  | stmt _ hwait _ heffect =>
    intro hwaits
    rcases heffect.ports with ⟨-, -, hawaiting⟩ | ⟨hrequest, -⟩
    · have hnone : t.host.awaiting = none := by
        rcases hawaiting with hsame | hnone
        · exact hsame.trans hwait
        · exact hnone
      exact absurd hnone hwaits
    · exact .inl hrequest
  | @begin c cs _ hwait =>
    refine fun hwaits => absurd ?_ hwaits
    rcases beginCall_ports c (s.setHost { s.host with calls := cs }) with ⟨-, -, -, hsame⟩ | ⟨-, -, hnone⟩
    · exact hsame.trans hwait
    · exact hnone
  | idle => exact hserved

end Sys2Proof
end

section
/-! PROOF. Accepted host programs (spec/47_host_sequences.md R150, spec/30_encoding.md R51, R58): what the
check of a statement asks for is what the statement needs, and what it learns is what the statement and
the response to it give. -/

namespace Sys2Proof.Machine
open Rules

/-! ## Requests and their responses -/

/-- A request with known operands has its 72 bits. -/
theorem exists_requestWord {src : ReqSource} {v : HostVars} (held : Nat → Byte)
    (h : v.known.operands src = true) : ∃ w, requestWord src held v = some w := by
  cases src with
  | compT =>
    obtain ⟨ut, hut⟩ := Option.isSome_iff_exists.mp h
    exact ⟨_, by rw [requestWord, hut]⟩
  | compP =>
    obtain ⟨hup, hb5⟩ := Bool.and_eq_true_iff.mp h
    obtain ⟨up, hup⟩ := Option.isSome_iff_exists.mp hup
    obtain ⟨b5, hb5⟩ := Option.isSome_iff_exists.mp hb5
    exact ⟨_, by rw [requestWord, hup, hb5]⟩
  | compAlt =>
    obtain ⟨p, hp⟩ := Option.isSome_iff_exists.mp h
    exact ⟨_, by rw [requestWord, hp]⟩
  | _ => exact ⟨_, rfl⟩

/-- The request of an operation gives the result of the operation (R58). -/
theorem requestResult_encode (i : Instr) : requestResult (encode i) = instrResult i :=
  requestResult_instr (decode_encode i)

/-- The bits of a request give the result its source names (R58). -/
theorem requestFits_requestWord {src : ReqSource} {held : Nat → Byte} {v : HostVars} {w : Request}
    (h : requestWord src held v = some w) : requestFits src w = true := by
  rw [requestFits, beq_iff_eq]
  cases src with
  | word =>
    cases h
    rfl
  | asmUt | asmUp =>
    cases h
    exact requestResult_encode _
  | compT | compP | compAlt =>
    simp only [requestWord] at h
    split at h <;> cases h
    exact requestResult_encode _

/-- An `OK` response to an operation has the results the operation gives (R53, R58). -/
theorem Effect.result_given {s t : State} {i : Instr} (h : Effect s i t) {src : ReqSource}
    (hsrc : instrResult i = src.result) : ∃ r, t.response = some r ∧ responseFits src r = true := by
  simp only [responseFits, ← hsrc]
  cases h <;> exact ⟨_, rfl, rfl⟩

/-! ## The check of a state -/

/-- A state whose host waits for nothing is accepted when its statements are. -/
theorem todoAccepted_of_free {s : State} (hwait : s.host.awaiting = none)
    (h : checkStmts s.host.vars.known s.host.todo = true) : todoAccepted s = true := by
  rw [todoAccepted, hwait]
  exact h

/-- A state with no statement left, whose host waits for nothing, is accepted. -/
theorem todoAccepted_of_done {s : State} (hwait : s.host.awaiting = none) (htodo : s.host.todo = []) :
    todoAccepted s = true :=
  todoAccepted_of_free hwait (by rw [htodo]; rfl)

/-- What the check of a state says of a host that waits. -/
theorem todoAccepted_waiting_iff {s : State} {src : ReqSource} (hwait : s.host.awaiting = some src) :
    todoAccepted s = true ↔ portsFit src s = true ∧
      ∃ k, checkRequest s.host.vars.known src = some k ∧ checkStmts k s.host.todo = true := by
  rw [todoAccepted, hwait]
  dsimp only
  rcases checkRequest s.host.vars.known src with _ | k <;> simp

/-- What the check of a state says of a host about to execute a statement. -/
theorem checkStmt_of_todoAccepted {s : State} {st : Stmt} {rest : List Stmt}
    (hwait : s.host.awaiting = none) (htodo : s.host.todo = st :: rest) (h : todoAccepted s = true) :
    ∃ k, checkStmt s.host.vars.known st = some k ∧ checkStmts k rest = true := by
  rw [todoAccepted, hwait, htodo] at h
  dsimp only [checkStmts] at h
  rcases hcheck : checkStmt s.host.vars.known st with _ | k <;> rw [hcheck] at h
  · cases h
  · exact ⟨k, rfl, h⟩

/-- The check of a host that waits looks at the host and the ports only. -/
theorem todoAccepted_congr {s t : State} (hhost : t.host = s.host)
    (hports : ∀ src, s.host.awaiting = some src → portsFit src s = true → portsFit src t = true)
    (h : todoAccepted s = true) : todoAccepted t = true := by
  rcases hwait : s.host.awaiting with _ | src
  · rw [todoAccepted, hwait] at h
    exact todoAccepted_of_free (by rw [hhost, hwait]) (by rw [hhost]; exact h)
  · obtain ⟨hfit, hrest⟩ := (todoAccepted_waiting_iff hwait).mp h
    refine (todoAccepted_waiting_iff (by rw [hhost, hwait])).mpr ⟨hports src hwait hfit, ?_⟩
    rw [hhost]
    exact hrest

/-! ## An accepted program goes on -/

/-- A statement that passes the check answers a next state. -/
theorem runStmt_next {st : Stmt} {s : State} {k : Known} (hfree : s.request = none)
    (hcheck : checkStmt s.host.vars.known st = some k) : ∃ t, runStmt st s = .next t := by
  cases st with
  | busWr addr byte =>
    simp only [checkStmt] at hcheck
    split_ifs at hcheck with hdescribed
    exact ⟨_, if_pos hdescribed⟩
  | busRd addr n =>
    simp only [checkStmt] at hcheck
    split_ifs at hcheck with hn
    exact ⟨_, if_neg hn⟩
  | request src =>
    simp only [checkStmt, checkRequest] at hcheck
    split_ifs at hcheck with hoperands
    obtain ⟨w, hw⟩ := exists_requestWord (heldByte s) hoperands
    simp only [runStmt, hw]
    exact ⟨_, issue_free (by simpa [useHeld_draw] using hfree) src w⟩
  | endOk r =>
    simp only [checkStmt] at hcheck
    split_ifs at hcheck with hhas
    have hvalue : ∃ v, resultOf r s.host.vars = some v := by
      cases r with
      | nothing => exact ⟨none, rfl⟩
      | _ =>
        obtain ⟨x, hx⟩ := Option.isSome_iff_exists.mp hhas
        exact ⟨some x, by simp [resultOf, hx]⟩
    obtain ⟨v, hv⟩ := hvalue
    exact ⟨_, by simp only [runStmt, hv]; rfl⟩
  | busWrPressure | wait | waitPressure | checkId => exact ⟨_, rfl⟩

/-- A step from an accepted state answers a next state. -/
theorem step_next_of_todoAccepted {s : State} (h : todoAccepted s = true) : ∃ t, step s = .next t := by
  rcases hw : s.request with _ | w
  · rw [step_host hw]
    rcases hwait : s.host.awaiting with _ | src
    · rcases htodo : s.host.todo with _ | ⟨st, rest⟩
      · rcases hcalls : s.host.calls with _ | ⟨c, cs⟩
        · exact ⟨s, hostStep_idle hwait htodo hcalls⟩
        · exact ⟨_, hostStep_begin hwait htodo hcalls⟩
      · obtain ⟨k, hcheck, -⟩ := checkStmt_of_todoAccepted hwait htodo h
        rw [hostStep_stmt hwait htodo]
        exact runStmt_next hw hcheck
    · obtain ⟨hfit, -⟩ := (todoAccepted_waiting_iff hwait).mp h
      rw [portsFit, hw] at hfit
      rcases hr : s.response with _ | r
      · simp [hr] at hfit
      · exact ⟨_, hostStep_take hwait hr⟩
  · rw [step_pending hw]
    exact acceptRequest_next w s

/-! ## An accepted program stays accepted -/

/-- A statement leaves an accepted state, if what the check learns of it lets the statements left
pass. -/
theorem StmtEffect.todoAccepted {s t : State} {st : Stmt} {k : Known} (h : StmtEffect s st t)
    (hwait : s.host.awaiting = none) (hcheck : checkStmt s.host.vars.known st = some k)
    (hrest : checkStmts k s.host.todo = true) : todoAccepted t = true := by
  cases h with
  | busWrErr | busWrPressureErr | busRdErr | checkId | endOk => exact todoAccepted_of_done rfl rfl
  | busWrPressureOk | wait | waitPressure =>
    cases hcheck
    exact todoAccepted_of_free hwait hrest
  | busWrOk =>
    simp only [checkStmt] at hcheck
    split_ifs at hcheck
    cases hcheck
    exact todoAccepted_of_free hwait hrest
  | busRdOk =>
    simp only [checkStmt] at hcheck
    split_ifs at hcheck
    cases hcheck
    exact todoAccepted_of_free hwait hrest
  | request src w n hw =>
    exact (todoAccepted_waiting_iff rfl).mpr ⟨requestFits_requestWord hw, k, hcheck, hrest⟩

/-- Taking a response that fits leaves an accepted state: an `OK` one gives what the check learned. -/
theorem takeResponse_todoAccepted {s : State} {src : ReqSource} {r : Response} {k : Known}
    (hr : responseFits src r = true) (hcheck : checkRequest s.host.vars.known src = some k)
    (hrest : checkStmts k s.host.todo = true) : todoAccepted (takeResponse src r s) = true := by
  unfold takeResponse
  split_ifs with hok
  · refine todoAccepted_of_free rfl ?_
    rw [responseFits, if_pos hok] at hr
    rw [checkRequest] at hcheck
    split_ifs at hcheck
    cases hcheck
    exact (storeResults_known hr s.host.vars).symm ▸ hrest
  · exact todoAccepted_of_done rfl rfl

/-- A sequence begun from an accepted state leaves an accepted state. -/
theorem beginCall_todoAccepted {c : HostCall} {s : State} (hwait : s.host.awaiting = none)
    (hc : c.accepted = true) : todoAccepted (beginCall c s) = true := by
  cases c with
  | new cfg => exact todoAccepted_of_done rfl rfl
  | _ => exact todoAccepted_of_free hwait hc

/-- A sequence begun is no longer to come. -/
theorem beginCall_calls (c : HostCall) (s : State) : (beginCall c s).host.calls = s.host.calls := by
  cases c <;> rfl

/-- A step leaves the sequences to come, or begins the first of them. -/
theorem StepEffect.calls_subset {s t : State} (h : StepEffect s t) :
    ∀ c ∈ t.host.calls, c ∈ s.host.calls := by
  intro c hc
  cases h with
  | unit _ _ heffect => rwa [heffect.host_eq.1] at hc
  | illegal => exact hc
  | take =>
    rw [takeResponse_eq] at hc
    split at hc <;> exact hc
  | stmt _ _ _ heffect => rwa [heffect.calls_eq] at hc
  | begin _ _ _ hcalls =>
    rw [beginCall_calls] at hc
    rw [hcalls]
    exact List.mem_cons_of_mem _ hc
  | idle => exact hc

/-- A step from an accepted state leaves an accepted state. -/
theorem StepEffect.todoAccepted {s t : State} (h : StepEffect s t) (hs : todoAccepted s = true)
    (hcalls : ∀ c ∈ s.host.calls, c.accepted = true) : todoAccepted t = true := by
  cases h with
  | unit hw hdecode heffect =>
    obtain ⟨hhost, hrequest⟩ := heffect.host_eq
    refine todoAccepted_congr (s := s) hhost (fun src _ hfit => ?_) hs
    rw [portsFit, hw] at hfit
    dsimp only at hfit
    rw [requestFits, requestResult_instr hdecode, beq_iff_eq] at hfit
    obtain ⟨r, hr, hgiven⟩ := heffect.result_given hfit
    rw [portsFit, hrequest, hr]
    exact hgiven
  | illegal hw => exact todoAccepted_congr (s := s) rfl (fun _ _ _ => rfl) hs
  | take hfree hwait hr =>
    obtain ⟨hfit, k, hcheck, hrest⟩ := (todoAccepted_waiting_iff hwait).mp hs
    rw [portsFit, hfree, hr] at hfit
    exact takeResponse_todoAccepted hfit hcheck hrest
  | stmt _ hwait htodo heffect =>
    obtain ⟨k, hcheck, hrest⟩ := checkStmt_of_todoAccepted hwait htodo hs
    exact heffect.todoAccepted hwait hcheck hrest
  | begin _ hwait _ hnext =>
    exact beginCall_todoAccepted hwait (hcalls _ (by rw [hnext]; exact List.mem_cons_self))
  | idle => exact hs

end Sys2Proof.Machine

namespace Sys2Proof
open Machine Rules

/-- Settles O48: an accepted state has a next state, which is accepted, and the sequences to come stay
those that are. -/
theorem acceptedProgramsNeverStop : Obligations.AcceptedProgramsNeverStop := by
  rintro s ⟨htodo, hcalls⟩
  obtain ⟨t, hstep⟩ := step_next_of_todoAccepted htodo
  have heffect := stepEffect_of_step hstep
  exact ⟨t, hstep, heffect.todoAccepted htodo hcalls, fun c hc => hcalls c (heffect.calls_subset c hc)⟩

/-- Settles O49: each expansion of the facade, checked statement by statement. -/
theorem facadeCallsAreAccepted : Obligations.FacadeCallsAreAccepted := by
  intro c hfacade
  cases c with
  | statements body => exact absurd rfl (hfacade body)
  | _ => rfl

end Sys2Proof
end

section
/-! PROOF. Hazards (spec/70_reset_and_hazards.md R211, R212, R215): what is known of the unit's sensor
follows the stage of the sequence in progress, event by event, and every other sensor is left alone. -/

namespace Sys2Proof.Machine
open Rules

/-! ## Records put together -/

/-- The record is followed event by event. -/
theorem hazardRun_cons (dev : BitVec 7) (c : Conversion) (e : BusEvent) (es : List BusEvent) :
    hazardRun dev c (e :: es) = (hazardStep dev c e).bind (hazardRun dev · es) := by
  rw [hazardRun]
  rcases hazardStep dev c e with _ | c' <;> rfl

/-- A record is followed part by part. -/
theorem hazardRun_append {dev : BitVec 7} {c c' : Conversion} {es : List BusEvent} (fs : List BusEvent)
    (h : hazardRun dev c es = some c') : hazardRun dev c (es ++ fs) = hazardRun dev c' fs := by
  induction es generalizing c with
  | nil =>
    cases h
    rfl
  | cons e es ih =>
    rw [hazardRun_cons] at h
    obtain ⟨c1, hstep, hrest⟩ := Option.bind_eq_some_iff.mp h
    rw [List.cons_append, hazardRun_cons, hstep]
    exact ih hrest

/-- One event more. -/
theorem hazardRun_concat {dev : BitVec 7} {c c' : Conversion} {es : List BusEvent} (e : BusEvent)
    (h : hazardRun dev c es = some c') : hazardRun dev c (es ++ [e]) = hazardStep dev c' e := by
  rw [hazardRun_append [e] h, hazardRun_cons]
  exact Option.bind_fun_some _

/-- Events that leave what is known as it is. -/
theorem hazardRun_of_inert {dev : BitVec 7} {c : Conversion} {es : List BusEvent}
    (h : ∀ e ∈ es, hazardStep dev c e = some c) : hazardRun dev c es = some c := by
  induction es with
  | nil => rfl
  | cons e es ih =>
    rw [hazardRun, h e List.mem_cons_self]
    exact ih fun e' he' => h e' (List.mem_cons_of_mem _ he')

/-- An event of the sensor `dev`, or a wait. -/
def BusEvent.concerns (dev : BitVec 7) : BusEvent → Prop
  | .read d _ _ _ => d = dev
  | .write d _ _ _ => d = dev
  | .wait _ => True

/-- A sensor without a result to be read stays so through the events of another. -/
theorem hazardStep_other {dev dev' : BitVec 7} {c : Conversion} {e : BusEvent} (hne : dev' ≠ dev)
    (he : e.concerns dev) (hc : c.settled = true) :
    ∃ c', hazardStep dev' c e = some c' ∧ c'.settled = true := by
  cases e with
  | read d addr n ok =>
    obtain rfl : d = dev := he
    exact ⟨c, if_neg fun h => hne h.1.symm, hc⟩
  | write d addr data ok =>
    obtain rfl : d = dev := he
    exact ⟨c, if_pos hne.symm, hc⟩
  | wait us =>
    cases c with
    | running => cases hc
    | quiet | done => exact ⟨_, rfl, rfl⟩

/-! ## The stage of a sequence and what is known of the sensor -/

/-- The record violates no hazard for any sensor; what is known of the unit's sensor fits the stage `g`,
and no other sensor has a result still to be read. -/
def Tracked (s : State) (g : Stage) : Prop :=
  (∀ dev, dev ≠ s.cfg.busAddr → ∃ c, hazardRun dev .quiet s.busLog = some c ∧ c.settled = true)
  ∧ ∃ c, hazardRun s.cfg.busAddr .quiet s.busLog = some c ∧ Stage.fits g s.oss c = true

/-- A safe state is one whose record is followed by the stage its statements are checked from. -/
theorem hazardSafe_iff {s : State} : HazardSafe s ↔ ∃ g, Tracked s g
    ∧ checkStages g s.host.todo = true
    ∧ (s.request ≠ none ∨ s.host.awaiting ≠ none → g = .free)
    ∧ ∀ c ∈ s.host.calls, c.hazardChecked = true := by
  constructor
  · rintro ⟨hothers, ⟨c, g, hrun, hfits, hcheck, hfree⟩, hcalls⟩
    exact ⟨g, ⟨hothers, c, hrun, hfits⟩, hcheck, hfree, hcalls⟩
  · rintro ⟨g, ⟨hothers, c, hrun, hfits⟩, hcheck, hfree, hcalls⟩
    exact ⟨hothers, ⟨c, g, hrun, hfits, hcheck, hfree⟩, hcalls⟩

/-- A record followed at a stage depends on the sensor's address, the level and the record only. -/
theorem Tracked.congr {s t : State} {g : Stage} (h : Tracked s g)
    (hdev : t.cfg.busAddr = s.cfg.busAddr) (hoss : t.oss = s.oss) (hlog : t.busLog = s.busLog) :
    Tracked t g := by
  unfold Tracked
  rw [hdev, hoss, hlog]
  exact h

/-- With no result still to be read, every sensor is alike, so the address and the level do not
matter. -/
theorem tracked_free_iff {s : State} : Tracked s .free ↔
    ∀ dev, ∃ c, hazardRun dev .quiet s.busLog = some c ∧ c.settled = true := by
  constructor
  · rintro ⟨hothers, hown⟩ dev
    by_cases hdev : dev = s.cfg.busAddr
    · rw [hdev]
      exact hown
    · exact hothers dev hdev
  · exact fun h => ⟨fun dev _ => h dev, h _⟩

/-- One event of the unit's sensor, or a wait, takes the record from a stage to the next. -/
theorem Tracked.concat {s t : State} {g g' : Stage} {e : BusEvent} (h : Tracked s g)
    (hdev : t.cfg.busAddr = s.cfg.busAddr) (hoss : t.oss = s.oss) (hlog : t.busLog = s.busLog ++ [e])
    (he : e.concerns s.cfg.busAddr)
    (hnext : ∀ c, Stage.fits g s.oss c = true →
      ∃ c', hazardStep s.cfg.busAddr c e = some c' ∧ Stage.fits g' s.oss c' = true) :
    Tracked t g' := by
  obtain ⟨hothers, c, hrun, hfits⟩ := h
  refine ⟨fun dev hne => ?_, ?_⟩
  · rw [hdev] at hne
    obtain ⟨c1, hrun1, hsettled1⟩ := hothers dev hne
    rw [hlog, hazardRun_concat e hrun1]
    exact hazardStep_other hne he hsettled1
  · rw [hlog, hdev, hoss, hazardRun_concat e hrun]
    exact hnext c hfits

/-! ## One statement in a stage

Each lemma follows one kind of statement that the check lets pass: the event it records is no violation,
and after a success what is known fits the next stage, after a failure no result is still to be read. -/

/-- What is known after an event, for a stage reached by a success, and none left to read otherwise. -/
def Stage.after (g : Stage) (ok : Bool) : Stage := if ok then g else .free

/-- A conversion just started puts the sequence in its stage. -/
theorem fits_ofConversion {byte : Byte} {c : Conversion} (h : conversionOf byte = some c)
    (oss : BitVec 2) : Stage.fits (.ofConversion c) oss c = true := by
  have hrunning : ∃ bytes us, c = .running bytes us := by
    unfold conversionOf at h
    split_ifs at h <;> cases h <;> exact ⟨_, _, rfl⟩
  obtain ⟨bytes, us, rfl⟩ := hrunning
  exact beq_self_eq_true _

/-- The pressure command of a level starts its conversion (R56, R92). -/
theorem conversionOf_controlPressure (oss : BitVec 2) :
    conversionOf (controlPressure oss) = some (.running 3 (pressureWait oss)) := by
  rcases level_cases oss with rfl | rfl | rfl | rfl <;> decide

/-- The command register is not the soft reset register (R31). -/
theorem regSoftRst_ne_regCtrlMeas : regSoftRst ≠ regCtrlMeas := by decide

/-- A statement of the command register is a command to the sensor. -/
theorem hazardStep_command (dev : BitVec 7) (c : Conversion) (data : List Byte) (ok : Bool) :
    hazardStep dev c (.write dev regCtrlMeas data ok) = c.command data ok := by
  simp [hazardStep]

/-- A described command, with no result still to be read. -/
theorem command_settled {c c' : Conversion} {byte : Byte} (hc : c.settled = true)
    (hbyte : conversionOf byte = some c') (ok : Bool) :
    c.command [byte] ok = some (if ok then c' else .quiet) := by
  simp [Conversion.command, hc, hbyte]

/-- `BUS.WR` in a stage. -/
theorem hazardStep_busWr {dev : BitVec 7} {oss : BitVec 2} {g g' : Stage} {c : Conversion}
    {addr byte : Byte} (hcheck : checkStage g (.busWr addr byte) = some g')
    (hfits : Stage.fits g oss c = true) (ok : Bool) :
    ∃ c', hazardStep dev c (.write dev addr [byte] ok) = some c'
      ∧ Stage.fits (g'.after ok) oss c' = true := by
  cases g with
  | running => cases hcheck
  | pressure => cases hcheck
  | free =>
    have hc : c.settled = true := hfits
    simp only [checkStage] at hcheck
    split_ifs at hcheck with haddr
    · obtain ⟨c', hbyte, rfl⟩ := Option.map_eq_some_iff.mp hcheck
      subst haddr
      refine ⟨_, (hazardStep_command _ _ _ _).trans (command_settled hc hbyte ok), ?_⟩
      cases ok with
      | true => exact fits_ofConversion hbyte oss
      | false => rfl
    · cases hcheck
      have hfree : Stage.after .free ok = .free := by cases ok <;> rfl
      rw [hfree]
      by_cases hreset : addr = regSoftRst
      · exact ⟨.quiet, by simp [hazardStep, hreset, regSoftRst_ne_regCtrlMeas], rfl⟩
      · exact ⟨c, by simp [hazardStep, haddr, hreset], hc⟩

/-- The pressure command in a stage. -/
theorem hazardStep_busWrPressure {dev : BitVec 7} {oss : BitVec 2} {g g' : Stage} {c : Conversion}
    (hcheck : checkStage g .busWrPressure = some g') (hfits : Stage.fits g oss c = true) (ok : Bool) :
    ∃ c', hazardStep dev c (.write dev regCtrlMeas [controlPressure oss] ok) = some c'
      ∧ Stage.fits (g'.after ok) oss c' = true := by
  cases g with
  | running => cases hcheck
  | pressure => cases hcheck
  | free =>
    cases hcheck
    refine ⟨_, (hazardStep_command _ _ _ _).trans
      (command_settled hfits (conversionOf_controlPressure oss) ok), ?_⟩
    cases ok with
    | true => exact beq_self_eq_true _
    | false => rfl

/-- A read from `OUT_MSB` touches the output registers (R31, R35). -/
theorem touchesOutput_regOutMsb {n : Nat} (hn : n ≠ 0) : touchesOutput regOutMsb n = true := by
  have haddr : regOutMsb.toNat = 0xF6 := rfl
  simp only [touchesOutput, haddr, Bool.and_eq_true, decide_eq_true_eq]
  omega

/-- `BUS.RD` in a stage. -/
theorem hazardStep_busRd {dev : BitVec 7} {oss : BitVec 2} {g g' : Stage} {c : Conversion}
    {addr : Byte} {n : Nat} (hn : n ≠ 0) (hcheck : checkStage g (.busRd addr n) = some g')
    (hfits : Stage.fits g oss c = true) (ok : Bool) :
    ∃ c', hazardStep dev c (.read dev addr n ok) = some c'
      ∧ Stage.fits (g'.after ok) oss c' = true := by
  cases g with
  | pressure => cases hcheck
  | free =>
    simp only [checkStage] at hcheck
    split_ifs at hcheck with htouches
    cases hcheck
    exact ⟨c, if_neg fun h => htouches h.2, by cases ok <;> exact hfits⟩
  | running bytes left =>
    simp only [checkStage] at hcheck
    split_ifs at hcheck with hread
    cases hcheck
    obtain rfl : c = .running bytes left := eq_of_beq hfits
    have houtput : touchesOutput addr n = true := by
      rw [hread.1]
      exact touchesOutput_regOutMsb hn
    exact ⟨if ok then .done bytes else .quiet,
      by simp only [hazardStep, houtput, Conversion.readOutput, if_pos hread, and_self, if_true],
      by cases ok <;> rfl⟩

/-- `WAIT` in a stage. -/
theorem hazardStep_wait {dev : BitVec 7} {oss : BitVec 2} {g g' : Stage} {c : Conversion} {us : Nat}
    (hcheck : checkStage g (.wait us) = some g') (hfits : Stage.fits g oss c = true) :
    ∃ c', hazardStep dev c (.wait us) = some c' ∧ Stage.fits g' oss c' = true := by
  refine ⟨c.wait us, rfl, ?_⟩
  cases g with
  | pressure => cases hcheck
  | free =>
    cases hcheck
    cases c with
    | running => cases hfits
    | quiet | done => rfl
  | running bytes left =>
    cases hcheck
    obtain rfl : c = .running bytes left := eq_of_beq hfits
    exact beq_self_eq_true _

/-- The wait of a pressure conversion in a stage: the level has not changed since the command. -/
theorem hazardStep_waitPressure {dev : BitVec 7} {oss : BitVec 2} {g g' : Stage} {c : Conversion}
    (hcheck : checkStage g .waitPressure = some g') (hfits : Stage.fits g oss c = true) :
    ∃ c', hazardStep dev c (.wait (pressureWait oss)) = some c' ∧ Stage.fits g' oss c' = true := by
  refine ⟨c.wait (pressureWait oss), rfl, ?_⟩
  cases g with
  | running => cases hcheck
  | free =>
    cases hcheck
    cases c with
    | running => cases hfits
    | quiet | done => rfl
  | pressure =>
    cases hcheck
    obtain rfl : c = .running 3 (pressureWait oss) := eq_of_beq hfits
    simp [Conversion.wait, Stage.fits]

/-- Statements that record nothing pass the check while no result is still to be read. -/
theorem checkStage_silent {g g' : Stage} {st : Stmt}
    (hst : st = .checkId ∨ (∃ src, st = .request src) ∨ ∃ r, st = .endOk r)
    (hcheck : checkStage g st = some g') : g = .free ∧ g' = .free := by
  rcases hst with rfl | ⟨src, rfl⟩ | ⟨r, rfl⟩ <;> cases g <;> cases hcheck <;> exact ⟨rfl, rfl⟩

/-- A statement that the check lets pass takes the record to the next stage, or ends the sequence with
no result still to be read; while the host then waits, none is. -/
theorem StmtEffect.tracked {s t : State} {st : Stmt} {g g' : Stage} (h : StmtEffect s st t)
    (hfree : s.request = none) (hwait : s.host.awaiting = none) (hcheck : checkStage g st = some g')
    (hs : Tracked s g) :
    (t.host.todo = s.host.todo ∧ Tracked t g'
        ∧ (t.request ≠ none ∨ t.host.awaiting ≠ none → g' = .free))
      ∨ (t.host.todo = [] ∧ Tracked t .free) := by
  have hidle : s.request ≠ none ∨ s.host.awaiting ≠ none → g' = .free := by simp [hfree, hwait]
  cases h with
  | busWrOk =>
    exact .inl ⟨rfl, hs.concat rfl rfl rfl rfl fun c hc => hazardStep_busWr hcheck hc true, hidle⟩
  | busWrErr =>
    exact .inr ⟨rfl, hs.concat rfl rfl rfl rfl fun c hc => hazardStep_busWr hcheck hc false⟩
  | busWrPressureOk =>
    exact .inl ⟨rfl, hs.concat rfl rfl rfl rfl fun c hc => hazardStep_busWrPressure hcheck hc true,
      hidle⟩
  | busWrPressureErr =>
    exact .inr ⟨rfl, hs.concat rfl rfl rfl rfl fun c hc => hazardStep_busWrPressure hcheck hc false⟩
  | busRdOk addr n hn =>
    exact .inl ⟨rfl, hs.concat rfl rfl rfl rfl fun c hc => hazardStep_busRd hn hcheck hc true, hidle⟩
  | busRdErr addr n e hn =>
    exact .inr ⟨rfl, hs.concat rfl rfl rfl rfl fun c hc => hazardStep_busRd hn hcheck hc false⟩
  | wait => exact .inl ⟨rfl, hs.concat rfl rfl rfl trivial fun c hc => hazardStep_wait hcheck hc, hidle⟩
  | waitPressure =>
    exact .inl ⟨rfl, hs.concat rfl rfl rfl trivial fun c hc => hazardStep_waitPressure hcheck hc, hidle⟩
  | checkId =>
    obtain ⟨rfl, -⟩ := checkStage_silent (.inl rfl) hcheck
    exact .inr ⟨rfl, hs.congr rfl rfl rfl⟩
  | request src =>
    obtain ⟨rfl, rfl⟩ := checkStage_silent (.inr (.inl ⟨src, rfl⟩)) hcheck
    exact .inl ⟨rfl, hs.congr rfl rfl rfl, fun _ => rfl⟩
  | endOk r =>
    obtain ⟨rfl, -⟩ := checkStage_silent (.inr (.inr ⟨r, rfl⟩)) hcheck
    exact .inr ⟨rfl, hs.congr rfl rfl rfl⟩

/-! ## The unit's turn -/

/-- No read of a `CAL.LOAD` touches an output register (R31, R32). -/
theorem calReads_touch_nothing (mode : FetchMode) :
    ∀ r ∈ pairsReads mode calIndices, touchesOutput r.1 r.2 = false := by
  cases mode <;> decide

/-- The events of a `CAL.LOAD`, all succeeding or with one failing, are reads of the listed ones. -/
theorem mem_recordOk {dev : BitVec 7} {reads : List (Byte × Nat)} {e : BusEvent}
    (h : e ∈ recordOk dev reads) : ∃ r ∈ reads, e = .read dev r.1 r.2 true := by
  obtain ⟨r, hr, rfl⟩ := List.mem_map.mp h
  exact ⟨r, hr, rfl⟩

/-- The events of a `CAL.LOAD` of which one fails are reads of the listed ones. -/
theorem mem_recordErr {dev : BitVec 7} {reads : List (Byte × Nat)} {k : Nat} {e : BusEvent}
    (h : e ∈ recordErr dev reads k) : ∃ r ∈ reads, ∃ ok, e = .read dev r.1 r.2 ok := by
  rcases List.mem_append.mp h with h | h
  · obtain ⟨r, hr, rfl⟩ := mem_recordOk h
    exact ⟨r, List.mem_of_mem_take hr, true, rfl⟩
  · obtain ⟨r, hr, rfl⟩ := List.mem_map.mp h
    exact ⟨r, List.mem_of_getElem? (Option.mem_toList.mp hr), false, rfl⟩

/-- What an operation adds to the record touches no output register. -/
theorem Effect.busLog_inert {s t : State} {i : Instr} (h : Effect s i t) :
    ∃ es, t.busLog = s.busLog ++ es ∧ ∀ e ∈ es, ∀ dev c, hazardStep dev c e = some c := by
  have hread : ∀ r ∈ pairsReads s.cfg.fetchMode calIndices, ∀ dev' ok dev c,
      hazardStep dev c (.read dev' r.1 r.2 ok) = some c := by
    intro r hr dev' ok dev c
    simp [hazardStep, calReads_touch_nothing _ r hr]
  cases h with
  | calLoadOk =>
    refine ⟨_, rfl, fun e he dev c => ?_⟩
    obtain ⟨r, hr, rfl⟩ := mem_recordOk he
    exact hread r hr _ _ dev c
  | calLoadErr =>
    refine ⟨_, rfl, fun e he dev c => ?_⟩
    obtain ⟨r, hr, ok, rfl⟩ := mem_recordErr he
    exact hread r hr _ _ dev c
  | _ => exact ⟨[], (List.append_nil _).symm, fun _ he => (nomatch he)⟩

/-- The unit's turn leaves every sensor without a result to be read. -/
theorem Effect.tracked {s t : State} {i : Instr} (h : Effect s i t) (hs : Tracked s .free) :
    Tracked t .free := by
  rw [tracked_free_iff] at hs ⊢
  intro dev
  obtain ⟨c, hrun, hsettled⟩ := hs dev
  obtain ⟨es, hlog, hinert⟩ := h.busLog_inert
  refine ⟨c, ?_, hsettled⟩
  rw [hlog, hazardRun_append es hrun]
  exact hazardRun_of_inert fun e he => hinert e he dev c

/-! ## Every step -/

/-- At the end of a sequence no result is still to be read. -/
theorem free_of_checkStages_nil {g : Stage} (h : checkStages g [] = true) : g = .free := eq_of_beq h

/-- The check of a statement and of those after it. -/
theorem checkStages_cons {g : Stage} {st : Stmt} {rest : List Stmt}
    (h : checkStages g (st :: rest) = true) :
    ∃ g', checkStage g st = some g' ∧ checkStages g' rest = true := by
  unfold checkStages at h
  rcases hst : checkStage g st with _ | g' <;> rw [hst] at h
  · cases h
  · exact ⟨g', rfl, h⟩

/-- A sequence begun has its own statements left, or none. -/
theorem beginCall_todo_checked {c : HostCall} {s : State} (hc : c.hazardChecked = true) :
    checkStages .free (beginCall c s).host.todo = true := by
  cases c with
  | new => rfl
  | _ => exact hc

/-- A sequence begun records nothing. -/
theorem beginCall_busLog (c : HostCall) (s : State) : (beginCall c s).busLog = s.busLog := by
  cases c <;> rfl

/-- A step from a safe state leaves a record followed by the stage of the statements left. -/
theorem StepEffect.stage {s t : State} {g : Stage} (h : StepEffect s t) (hs : Tracked s g)
    (hcheck : checkStages g s.host.todo = true)
    (hfree : s.request ≠ none ∨ s.host.awaiting ≠ none → g = .free)
    (hcalls : ∀ c ∈ s.host.calls, c.hazardChecked = true) :
    ∃ g', Tracked t g' ∧ checkStages g' t.host.todo = true
      ∧ (t.request ≠ none ∨ t.host.awaiting ≠ none → g' = .free) := by
  cases h with
  | unit hw hdecode heffect =>
    obtain rfl := hfree (.inl (by simp [hw]))
    refine ⟨.free, heffect.tracked (hs.congr rfl rfl rfl), ?_, fun _ => rfl⟩
    rw [heffect.host_eq.1]
    exact hcheck
  | illegal hw =>
    obtain rfl := hfree (.inl (by simp [hw]))
    exact ⟨.free, hs.congr rfl rfl rfl, hcheck, fun _ => rfl⟩
  | take _ hwait =>
    obtain rfl := hfree (.inr (by simp [hwait]))
    rw [takeResponse_eq]
    refine ⟨.free, hs.congr rfl rfl rfl, ?_, fun _ => rfl⟩
    dsimp only
    split
    · exact hcheck
    · rfl
  | stmt hrequest hwait htodo heffect =>
    rw [htodo] at hcheck
    obtain ⟨g', hst, hrest⟩ := checkStages_cons hcheck
    rcases heffect.tracked hrequest hwait hst (hs.congr rfl rfl rfl) with
      ⟨hleft, ht, hidle⟩ | ⟨hleft, ht⟩
    · exact ⟨g', ht, by rw [hleft]; exact hrest, hidle⟩
    · exact ⟨.free, ht, by rw [hleft]; rfl, fun _ => rfl⟩
  | begin _ _ htodo hnext =>
    rw [htodo] at hcheck
    obtain rfl := free_of_checkStages_nil hcheck
    refine ⟨.free, ?_, beginCall_todo_checked (hcalls _ (by rw [hnext]; exact List.mem_cons_self)),
      fun _ => rfl⟩
    rw [tracked_free_iff] at hs ⊢
    rw [beginCall_busLog]
    exact hs
  | idle => exact ⟨g, hs, hcheck, hfree⟩

/-- In a safe state the record violates no hazard, for the unit's sensor and for every other. -/
theorem hazardFree_of_hazardSafe {s : State} (h : HazardSafe s) (dev : BitVec 7) :
    hazardFree dev s.busLog = true := by
  obtain ⟨hothers, ⟨c, g, hrun, -⟩, -⟩ := h
  by_cases hdev : dev = s.cfg.busAddr
  · rw [hdev, hazardFree, hrun]
    rfl
  · obtain ⟨c', hrun', -⟩ := hothers dev hdev
    rw [hazardFree, hrun']
    rfl

end Sys2Proof.Machine

namespace Sys2Proof
open Machine Rules

/-- Settles O60: each step takes the record and the statements left to the same next stage; a safe state
says of every sensor that its record violates nothing; the facade's expansions are checked statement by
statement; and an empty record is followed by the stage in which nothing is to be read. -/
theorem readsRespectTheHazards : Obligations.ReadsRespectTheHazards := by
  refine ⟨fun s t hs hstep => ?_, fun s dev hs => hazardFree_of_hazardSafe hs dev, fun c hfacade => ?_,
    fun cfg calls hcalls => ?_⟩
  · obtain ⟨g, htracked, hcheck, hfree, hcalls⟩ := hazardSafe_iff.mp hs
    have heffect := stepEffect_of_step hstep
    obtain ⟨g', htracked', hcheck', hfree'⟩ := heffect.stage htracked hcheck hfree hcalls
    exact hazardSafe_iff.mpr
      ⟨g', htracked', hcheck', hfree', fun c hc => hcalls c (heffect.calls_subset c hc)⟩
  · cases c with
    | statements body => exact absurd rfl (hfacade body)
    | _ => rfl
  · exact hazardSafe_iff.mpr ⟨.free, tracked_free_iff.mpr fun _ => ⟨.quiet, rfl, rfl⟩, rfl,
      fun _ => rfl, hcalls⟩

end Sys2Proof
end

section
/-! PROOF. The calibration decoder (spec/41_calibration_decoder.md R80 to R86): fetches of the coefficients
of an image, one after the other, and the reads they make. -/

namespace Sys2Proof.Machine
open Rules

/-- The answers a sensor whose calibration range holds an image gives to the fetch of coefficient `i`. -/
def pairAnswers (mode : FetchMode) (image : Nat → Byte) (i : Nat) : List BusAnswer :=
  match mode with
  | .bytewise => [.ok [image (2 * i)], .ok [image (2 * i + 1)]]
  | .pairwise => [.ok [image (2 * i), image (2 * i + 1)]]

/-- The answers to the fetches of several coefficients. -/
def pairsAnswers (mode : FetchMode) (image : Nat → Byte) (is : List Nat) : List BusAnswer :=
  is.flatMap (pairAnswers mode image)

/-- The answers to the fetches of all coefficients are those of the whole image (R32). -/
theorem pairsAnswers_calIndices (mode : FetchMode) (image : Nat → Byte) :
    pairsAnswers mode image calIndices = imageAnswers mode image (calReadCount mode) := by
  cases mode <;> rfl

/-- The first answers over an image. -/
theorem take_imageAnswers (mode : FetchMode) (image : Nat → Byte) {n m : Nat} (h : n ≤ m) :
    (imageAnswers mode image m).take n = imageAnswers mode image n := by
  rw [imageAnswers, ← List.map_take, List.take_range, Nat.min_eq_left h, imageAnswers]

/-- There are as many answers as reads. -/
theorem imageAnswers_length (mode : FetchMode) (image : Nat → Byte) (n : Nat) :
    (imageAnswers mode image n).length = n := by
  rw [imageAnswers, List.length_map, List.length_range]

/-- Every read of a fetch has one answer. -/
theorem pairAnswers_length (mode : FetchMode) (image : Nat → Byte) (i : Nat) :
    (pairAnswers mode image i).length = (pairReads mode i).length := by
  cases mode <;> rfl

/-- The coefficients of an image, as `CAL.LOAD` combines them (R82). -/
theorem imageWord_eq_combine (image : Nat → Byte) (i : Nat) :
    imageWord image i = combine (image (2 * i)) (image (2 * i + 1)) := (combine_eq _ _).symm

/-- The coefficient file of an image is that of its eleven patterns (R10, R80). -/
theorem ofWords_imageWord (image : Nat → Byte) :
    Cal.ofWords (calIndices.map (imageWord image)) = imageCal image := rfl

/-! ## The reads of a `CAL.LOAD` -/

/-- Address and width of read number `k` of a `CAL.LOAD` (R38, R81). -/
def calReadAt (mode : FetchMode) (k : Nat) : Byte × Nat :=
  match mode with
  | .bytewise => (0xAA + BitVec.ofNat 8 k, 1)
  | .pairwise => (0xAA + BitVec.ofNat 8 (2 * k), 2)

/-- The event of read number `k`. -/
theorem calRead_eq (mode : FetchMode) (dev : BitVec 7) (k : Nat) (ok : Bool) :
    calRead mode dev k ok = .read dev (calReadAt mode k).1 (calReadAt mode k).2 ok := by
  cases mode <;> rfl

/-- There are as many events as reads. -/
theorem calReads_length (mode : FetchMode) (dev : BitVec 7) (n : Nat) :
    (calReads mode dev n).length = n := by
  rw [calReads, List.length_map, List.length_range]

/-- The reads of the eleven fetches are those of the calibration range in ascending order (R38, R81). -/
theorem pairsReads_calIndices (mode : FetchMode) :
    pairsReads mode calIndices = (List.range (calReadCount mode)).map (calReadAt mode) := by
  cases mode <;> decide

/-- A whole `CAL.LOAD` has this many reads (R38). -/
theorem pairsReads_calIndices_length (mode : FetchMode) :
    (pairsReads mode calIndices).length = calReadCount mode := by
  rw [pairsReads_calIndices, List.length_map, List.length_range]

/-- The record of the first reads. -/
theorem recordOk_calReads (mode : FetchMode) (dev : BitVec 7) (n : Nat) :
    recordOk dev ((List.range n).map (calReadAt mode)) = calReads mode dev n := by
  simp only [recordOk, calReads, List.map_map]
  exact List.map_congr_left fun k _ => (calRead_eq mode dev k true).symm

/-- The record of a whole `CAL.LOAD` that succeeds (R38, R81). -/
theorem recordOk_calIndices (mode : FetchMode) (dev : BitVec 7) :
    recordOk dev (pairsReads mode calIndices) = calReads mode dev (calReadCount mode) := by
  rw [pairsReads_calIndices, recordOk_calReads]

/-- The record of a `CAL.LOAD` whose read number `n` fails (R85). -/
theorem recordErr_calIndices {mode : FetchMode} {n : Nat} (dev : BitVec 7) (h : n < calReadCount mode) :
    recordErr dev (pairsReads mode calIndices) n
      = calReads mode dev n ++ [calRead mode dev n false] := by
  have hread : ((List.range (calReadCount mode)).map (calReadAt mode))[n]? = some (calReadAt mode n) := by
    rw [List.getElem?_map, List.getElem?_range h, Option.map_some]
  rw [pairsReads_calIndices, recordErr, hread, ← List.map_take, List.take_range,
    Nat.min_eq_left (Nat.le_of_lt h), recordOk_calReads, calRead_eq]
  rfl

/-! ## Fetches over an image -/

/-- A fetch over an image gives the coefficient (R81, R82). -/
theorem fetchPair_image {i : Nat} {s : State} {image : Nat → Byte} {rest : List BusAnswer}
    (h : s.answers = pairAnswers s.cfg.fetchMode image i ++ rest) :
    fetchPair i s = (.ok (imageWord image i),
      s.advance (recordOk s.cfg.busAddr (pairReads s.cfg.fetchMode i))) := by
  rw [imageWord_eq_combine]
  rcases hmode : s.cfg.fetchMode with _ | _ <;> rw [hmode] at h
  · exact fetchPair_bytewise_ok hmode h
  · exact fetchPair_pairwise_ok hmode h

/-- A fetch over an image whose read number `n` fails gives the failure (R85). -/
theorem fetchPair_image_err {i n : Nat} {s : State} {image : Nat → Byte} {e : BusErr}
    {rest : List BusAnswer} (hn : n < (pairReads s.cfg.fetchMode i).length)
    (h : s.answers = (pairAnswers s.cfg.fetchMode image i).take n ++ .err e :: rest) :
    fetchPair i s =
      (.error e, s.advance (recordErr s.cfg.busAddr (pairReads s.cfg.fetchMode i) n)) := by
  rcases hmode : s.cfg.fetchMode with _ | _ <;> rw [hmode] at h hn
  · obtain rfl | rfl : n = 0 ∨ n = 1 := by
      simp only [pairReads, List.length_cons, List.length_nil] at hn
      omega
    · rw [fetchPair_first_err h, hmode]
      rfl
    · exact fetchPair_second_err hmode h
  · obtain rfl : n = 0 := by
      simp only [pairReads, List.length_cons, List.length_nil] at hn
      omega
    rw [fetchPair_first_err h, hmode]
    rfl

/-- Transactions that take their answers from the front of those scripted. -/
theorem advance_eq {s : State} {evs : List BusEvent} {as bs : List BusAnswer}
    (h : s.answers = as ++ bs) (hlen : as.length = evs.length) :
    s.advance evs = { s with
      answers := bs
      draws := s.draws + evs.length
      busLog := s.busLog ++ evs } := by
  simp [State.advance, h, ← hlen]

/-- Transactions leave the configuration alone. -/
@[simp] theorem State.advance_cfg (evs : List BusEvent) (s : State) : (s.advance evs).cfg = s.cfg := rfl

/-- The answers left after transactions. -/
theorem advance_answers {s : State} {evs : List BusEvent} {as bs : List BusAnswer}
    (h : s.answers = as ++ bs) (hlen : as.length = evs.length) : (s.advance evs).answers = bs := by
  rw [advance_eq h hlen]

/-- Every read of a list leaves one event. -/
theorem recordOk_length (dev : BitVec 7) (reads : List (Byte × Nat)) :
    (recordOk dev reads).length = reads.length := List.length_map _

/-- Fetches over an image give its coefficients (R80, R82). -/
theorem fetchAll_image {is : List Nat} {s : State} {image : Nat → Byte} {rest : List BusAnswer}
    (h : s.answers = pairsAnswers s.cfg.fetchMode image is ++ rest) :
    fetchAll is s = (.ok (is.map (imageWord image)),
      s.advance (recordOk s.cfg.busAddr (pairsReads s.cfg.fetchMode is))) := by
  induction is generalizing s with
  | nil => simp [fetchAll, pairsReads, recordOk, State.advance]
  | cons i is ih =>
    rw [pairsAnswers, List.flatMap_cons, List.append_assoc] at h
    have hrest := ih (advance_answers (evs := recordOk s.cfg.busAddr (pairReads s.cfg.fetchMode i)) h
      (by rw [recordOk_length, pairAnswers_length]))
    simp only [fetchAll, fetchPair_image h, hrest, advance_advance]
    simp [recordOk, pairsReads]

/-- Fetches over an image of whose reads number `n` fails give the failure (R85). -/
theorem fetchAll_image_err {is : List Nat} {s : State} {image : Nat → Byte} {n : Nat} {e : BusErr}
    {rest : List BusAnswer} (hn : n < (pairsReads s.cfg.fetchMode is).length)
    (h : s.answers = (pairsAnswers s.cfg.fetchMode image is).take n ++ .err e :: rest) :
    fetchAll is s =
      (.error e, s.advance (recordErr s.cfg.busAddr (pairsReads s.cfg.fetchMode is) n)) := by
  induction is generalizing s n with
  | nil => simp [pairsReads] at hn
  | cons i is ih =>
    have hreads : pairsReads s.cfg.fetchMode (i :: is)
        = pairReads s.cfg.fetchMode i ++ pairsReads s.cfg.fetchMode is := List.flatMap_cons
    have hlen := pairAnswers_length s.cfg.fetchMode image i
    rw [pairsAnswers, List.flatMap_cons] at h
    rw [hreads] at hn ⊢
    by_cases hfirst : n < (pairReads s.cfg.fetchMode i).length
    · rw [List.take_append_of_le_length (by omega)] at h
      rw [recordErr_left _ _ hfirst, fetchAll, fetchPair_image_err hfirst h]
    · obtain ⟨m, rfl⟩ := Nat.exists_eq_add_of_le (Nat.le_of_not_lt hfirst)
      rw [← hlen, List.take_length_add_append, List.append_assoc] at h
      rw [List.length_append, Nat.add_lt_add_iff_left] at hn
      have hrest := ih (s := s.advance (recordOk s.cfg.busAddr (pairReads s.cfg.fetchMode i))) hn
        (advance_answers h (by rw [recordOk_length, hlen]))
      simp only [fetchAll, fetchPair_image h, hrest, advance_advance, State.advance_cfg,
        recordErr_right]

end Sys2Proof.Machine

namespace Sys2Proof
open Machine Rules

/-- Settles O11: all fetches succeed, so the commit is of the image's coefficients, and as many answers
are used as there are reads. -/
theorem calLoadCommitsTheImage : Obligations.CalLoadCommitsTheImage := by
  intro a b s image rest h
  have hevents : (calReads s.cfg.fetchMode s.cfg.busAddr (calReadCount s.cfg.fetchMode)).length
      = calReadCount s.cfg.fetchMode := calReads_length _ _ _
  have hlen := (imageAnswers_length s.cfg.fetchMode image (calReadCount s.cfg.fetchMode)).trans
    hevents.symm
  have hfetch := fetchAll_image (is := calIndices) (by rw [pairsAnswers_calIndices]; exact h)
  rw [recordOk_calIndices, advance_eq h hlen, hevents] at hfetch
  rw [exec_calLoad, hfetch, calLoadEnd, ofWords_imageWord, respondOk_eq]
  rfl

/-- Settles O12: the fetches end at read `n`, so nothing is committed, and `n + 1` answers are used. -/
theorem calLoadFailureKeepsPriorState : Obligations.CalLoadFailureKeepsPriorState := by
  intro a b s image n e rest hn h
  have hevents : (calReads s.cfg.fetchMode s.cfg.busAddr n
      ++ [calRead s.cfg.fetchMode s.cfg.busAddr n false]).length = n + 1 := by
    rw [List.length_append, calReads_length, List.length_singleton]
  have hfetch := fetchAll_image_err (is := calIndices) (n := n)
    (by rw [pairsReads_calIndices_length]; exact hn)
    (by rw [pairsAnswers_calIndices, take_imageAnswers _ _ (Nat.le_of_lt hn)]; exact h)
  have hsplit : s.answers = (imageAnswers s.cfg.fetchMode image n ++ [.err e]) ++ rest := by
    rw [h, List.append_assoc, List.singleton_append]
  have hlen : (imageAnswers s.cfg.fetchMode image n ++ [BusAnswer.err e]).length = n + 1 := by
    rw [List.length_append, imageAnswers_length, List.length_singleton]
  rw [recordErr_calIndices _ hn, advance_eq hsplit (hlen.trans hevents.symm), hevents] at hfetch
  rw [exec_calLoad, hfetch, calLoadEnd, raise_eq]

/-- Settles O13: the two ends of a `CAL.LOAD`. -/
theorem calLoadIsAllOrNothing : Obligations.CalLoadIsAllOrNothing := by
  intro a b s t hnext
  cases effect_of_exec hnext with
  | calLoadOk => exact .inl ⟨rfl, rfl⟩
  | calLoadErr _ _ e => exact .inr ⟨e, rfl, rfl, rfl⟩

/-- Settles O14: the two ends of a `CAL.LOAD`, with the record of each. -/
theorem calLoadReadsTheCalibrationRangeInOrder :
    Obligations.CalLoadReadsTheCalibrationRangeInOrder := by
  intro a b s t hnext
  cases effect_of_exec hnext with
  | calLoadOk => exact .inl ⟨rfl, by rw [← recordOk_calIndices]; rfl⟩
  | calLoadErr _ _ e k hk =>
    rw [pairsReads_calIndices_length] at hk
    exact .inr ⟨e, k, hk, rfl, by rw [← recordErr_calIndices _ hk]; rfl⟩

/-- Settles O15: in either mode the coefficients are those of the image. -/
theorem fetchModesAgree : Obligations.FetchModesAgree := by
  intro a b s1 s2 image rest1 rest2 hmode1 hmode2 h1 h2
  exact ⟨_, _, calLoadCommitsTheImage a b s1 image rest1 (by rw [hmode1]; exact h1),
    calLoadCommitsTheImage a b s2 image rest2 (by rw [hmode2]; exact h2), rfl, rfl, rfl⟩

end Sys2Proof
end

section
/-! PROOF. The compensations (spec/43_temperature.md R102, R106 to R108, spec/44_pressure.md R110, R123,
R128, R129): their checks, the coefficients they read, and the envelopes inside which no step wraps. -/

namespace Sys2Proof.Rules
open Machine

/-! ## Ranges -/

/-- The range of a signed coefficient (R10). -/
theorem sval_range (h : Half) : -32768 ≤ sval h ∧ sval h ≤ 32768 := by
  have hlo := h.le_toInt
  have hhi := h.toInt_lt
  unfold sval
  omega

/-- The range of an unsigned coefficient (R10). -/
theorem uval_range (h : Half) : 0 ≤ uval h ∧ uval h ≤ 65535 := by
  have hlt := h.isLt
  unfold uval
  omega

/-- The range of a product. -/
theorem mul_range {x y a b : Int} (hx : -a ≤ x ∧ x ≤ a) (hy : -b ≤ y ∧ y ≤ b) :
    -(a * b) ≤ x * y ∧ x * y ≤ a * b := by
  rw [← abs_le] at hx hy ⊢
  rw [abs_mul]
  exact mul_le_mul hx hy (abs_nonneg y) ((abs_nonneg x).trans hx)

/-- The range of a truncated quotient. -/
theorem tdiv_range {x a : Int} (y : Int) (hx : -a ≤ x ∧ x ≤ a) : -a ≤ x.tdiv y ∧ x.tdiv y ≤ a := by
  have habs : (x.tdiv y).natAbs = x.natAbs / y.natAbs := Int.natAbs_tdiv x y
  have hle := Nat.div_le_self x.natAbs y.natAbs
  omega

/-! ## Temperature -/

/-- Inside the envelope the product of R101 fits in 32 bits (R107). -/
theorem tX1_product_range {c : Cal} {ut : Int} (hlo : 0 ≤ ut) (hhi : ut ≤ 65535)
    (hac5 : c.ac5.toNat ≤ 32767) :
    -(65535 * 32767) ≤ (ut - uval c.ac6) * uval c.ac5 ∧
      (ut - uval c.ac6) * uval c.ac5 ≤ 65535 * 32767 := by
  have hac6 := uval_range c.ac6
  have hac5' : uval c.ac5 ≤ 32767 := Int.ofNat_le.mpr hac5
  have hnonneg := (uval_range c.ac5).1
  exact mul_range ⟨by omega, by omega⟩ ⟨by omega, hac5'⟩

/-- Inside the envelope `x1` does not wrap (R107). -/
theorem tX1_eq_exact {c : Cal} {ut : Int} (hlo : 0 ≤ ut) (hhi : ut ≤ 65535)
    (hac5 : c.ac5.toNat ≤ 32767) : tX1 c ut = tX1Exact c ut := by
  have hprod := tX1_product_range hlo hhi hac5
  have hac6 := uval_range c.ac6
  rw [tX1, wrapS_eq_self (z := ut - uval c.ac6) (by omega) (by omega),
    wrapS_eq_self (by omega) (by omega), tX1Exact]

/-- The range of `x1` inside the envelope. -/
theorem tX1Exact_range {c : Cal} {ut : Int} (hlo : 0 ≤ ut) (hhi : ut ≤ 65535)
    (hac5 : c.ac5.toNat ≤ 32767) : -65536 ≤ tX1Exact c ut ∧ tX1Exact c ut ≤ 65536 := by
  have hprod := tX1_product_range hlo hhi hac5
  unfold tX1Exact
  omega

/-- Inside the envelope the divisor does not wrap (R107). -/
theorem tDen_eq_exact {c : Cal} {ut : Int} (hlo : 0 ≤ ut) (hhi : ut ≤ 65535)
    (hac5 : c.ac5.toNat ≤ 32767) : tDen c ut = tX1Exact c ut + sval c.md := by
  have hx1 := tX1Exact_range hlo hhi hac5
  have hmd := sval_range c.md
  rw [tDen, tX1_eq_exact hlo hhi hac5, wrapS_eq_self (by omega) (by omega)]

/-- The range of `b5` inside the envelope. -/
theorem tB5Exact_range {c : Cal} {ut : Int} (hlo : 0 ≤ ut) (hhi : ut ≤ 65535)
    (hac5 : c.ac5.toNat ≤ 32767) : -68000000 ≤ tB5Exact c ut ∧ tB5Exact c ut ≤ 68000000 := by
  have hx1 := tX1Exact_range hlo hhi hac5
  have hmc := sval_range c.mc
  have hx2 := tdiv_range (x := sval c.mc * 2 ^ 11) (a := 67108864) (tX1Exact c ut + sval c.md)
    ⟨by omega, by omega⟩
  unfold tB5Exact
  omega

/-- Inside the envelope `b5` does not wrap (R107). -/
theorem tB5_eq_exact {c : Cal} {ut : Int} (hlo : 0 ≤ ut) (hhi : ut ≤ 65535)
    (hac5 : c.ac5.toNat ≤ 32767) : tB5 c ut = tB5Exact c ut := by
  have hb5 := tB5Exact_range hlo hhi hac5
  have hmc := sval_range c.mc
  rw [tB5, tX2, tX1_eq_exact hlo hhi hac5, tDen_eq_exact hlo hhi hac5,
    wrapS_eq_self (z := sval c.mc * 2 ^ 11) (by omega) (by omega), ← tB5Exact,
    wrapS_eq_self (by omega) (by omega)]

/-- With zero coefficients the divisor of R102 is zero (R108). -/
theorem tDen_zero (ut : Int) : tDen Cal.zero ut = 0 := by
  have hac5 : uval Cal.zero.ac5 = 0 := rfl
  have hmd : sval Cal.zero.md = 0 := rfl
  rw [tDen, tX1, hac5, hmd, mul_zero]
  rfl

/-! ## Pressure -/

/-- With zero coefficients the divisor of R120 is zero (R129). -/
theorem pB4_zero (b5 : Int) : pB4 Cal.zero b5 = 0 := by
  have hac4 : uval Cal.zero.ac4 = 0 := rfl
  rw [pB4, hac4, zero_mul]
  rfl

/-- With zero coefficients the rules give no pressure (R129). -/
theorem pressureRule_zero (oss : Nat) (up b5 : Int) : pressureRule Cal.zero oss up b5 = none := by
  unfold pressureRule
  rw [if_pos (pB4_zero b5)]
  split <;> rfl

/-- The square of `p >>a 8` fits in an `i32` exactly for these `p` (R123): 46340 is the greatest number
whose square does. -/
theorem square_fits_iff (p : Int) :
    p / 2 ^ 8 * (p / 2 ^ 8) ≤ 2 ^ 31 - 1 ↔ -11863040 ≤ p ∧ p ≤ 11863295 := by
  have hroot : p / 2 ^ 8 * (p / 2 ^ 8) ≤ 2 ^ 31 - 1 ↔ -46340 ≤ p / 2 ^ 8 ∧ p / 2 ^ 8 ≤ 46340 := by
    constructor
    · intro hsquare
      constructor <;> nlinarith
    · rintro ⟨hlo, hhi⟩
      nlinarith
  rw [hroot]
  omega

section Envelope

variable {c : Cal} {oss : Nat} {up b5 : Int} (hlo : -4192 ≤ b5) (hhi : b5 ≤ 12192)
include hlo hhi

/-- The range of `b6` squared, inside the envelope of `b5`. -/
theorem b6_square_range : 0 ≤ (b5 - 4000) * (b5 - 4000) ∧ (b5 - 4000) * (b5 - 4000) ≤ 67108864 := by
  have hsquare := mul_range (x := b5 - 4000) (y := b5 - 4000) (a := 8192) (b := 8192)
    ⟨by omega, by omega⟩ ⟨by omega, by omega⟩
  exact ⟨mul_self_nonneg _, hsquare.2⟩

/-- Inside the envelope `b6` does not wrap (R128). -/
theorem pB6_eq_exact : pB6 b5 = b5 - 4000 := wrapS_eq_self (by omega) (by omega)

/-- Inside the envelope `sq` does not wrap (R128). -/
theorem pSq_eq_exact : pSq b5 = (b5 - 4000) * (b5 - 4000) / 2 ^ 12 := by
  have hsquare := b6_square_range hlo hhi
  rw [pSq, pB6_eq_exact hlo hhi, wrapS_eq_self (by omega) (by omega)]

/-- A coefficient times `b6`, inside the envelope. -/
theorem coef_mul_b6_range (h : Half) :
    -268435456 ≤ sval h * (b5 - 4000) ∧ sval h * (b5 - 4000) ≤ 268435456 :=
  mul_range (a := 32768) (b := 8192) (sval_range h) ⟨by omega, by omega⟩

/-- A coefficient times `sq`, inside the envelope. -/
theorem coef_mul_sq_range (h : Half) :
    -536870912 ≤ sval h * ((b5 - 4000) * (b5 - 4000) / 2 ^ 12) ∧
      sval h * ((b5 - 4000) * (b5 - 4000) / 2 ^ 12) ≤ 536870912 := by
  have hsquare := b6_square_range hlo hhi
  exact mul_range (a := 32768) (b := 16384) (sval_range h) ⟨by omega, by omega⟩

/-- Inside the envelope `x3` does not wrap (R128). -/
theorem pX3_eq_exact : pX3 c b5 = sval c.b2 * ((b5 - 4000) * (b5 - 4000) / 2 ^ 12) / 2 ^ 11
    + sval c.ac2 * (b5 - 4000) / 2 ^ 11 := by
  have hx1 := coef_mul_sq_range hlo hhi c.b2
  have hx2 := coef_mul_b6_range hlo hhi c.ac2
  rw [pX3, pX1, pX2, pB6_eq_exact hlo hhi, pSq_eq_exact hlo hhi,
    wrapS_eq_self (z := sval c.b2 * _) (by omega) (by omega),
    wrapS_eq_self (z := sval c.ac2 * _) (by omega) (by omega), wrapS_eq_self (by omega) (by omega)]

/-- The range of `x3` inside the envelope. -/
theorem pX3_range : -393216 ≤ pX3 c b5 ∧ pX3 c b5 ≤ 393216 := by
  have hx1 := coef_mul_sq_range hlo hhi c.b2
  have hx2 := coef_mul_b6_range hlo hhi c.ac2
  rw [pX3_eq_exact hlo hhi]
  omega

/-- The dividend of R114 inside the envelope, before the addition of 2. -/
theorem b3_dividend_range (hoss : oss ≤ 3) :
    -4194304 ≤ (sval c.ac1 * 4 + pX3 c b5) * 2 ^ oss ∧
      (sval c.ac1 * 4 + pX3 c b5) * 2 ^ oss ≤ 4194304 := by
  have hac1 := sval_range c.ac1
  have hx3 := pX3_range (c := c) hlo hhi
  have hscale : (-8 : Int) ≤ 2 ^ oss ∧ (2 : Int) ^ oss ≤ 8 := by interval_cases oss <;> decide
  exact mul_range (a := 524288) (b := 8) ⟨by omega, by omega⟩ hscale

/-- Inside the envelope `b3` does not wrap (R128). -/
theorem pB3_eq_exact (hoss : oss ≤ 3) : pB3 c oss b5 = pB3Exact c oss b5 := by
  have hac1 := sval_range c.ac1
  have hx3 := pX3_range (c := c) hlo hhi
  have hdividend := b3_dividend_range (c := c) hlo hhi hoss
  rw [pB3, wrapS_eq_self (z := sval c.ac1 * 4) (by omega) (by omega),
    wrapS_eq_self (z := sval c.ac1 * 4 + pX3 c b5) (by omega) (by omega),
    wrapS_eq_self (z := (sval c.ac1 * 4 + pX3 c b5) * 2 ^ oss) (by omega) (by omega),
    wrapS_eq_self (by omega) (by omega), pX3_eq_exact hlo hhi, pB3Exact]

/-- The range of `b3` inside the envelope. -/
theorem pB3Exact_range (hoss : oss ≤ 3) :
    -4194306 ≤ pB3Exact c oss b5 ∧ pB3Exact c oss b5 ≤ 4194306 := by
  have hdividend := b3_dividend_range (c := c) hlo hhi hoss
  rw [pX3_eq_exact hlo hhi] at hdividend
  exact tdiv_range 4 ⟨by omega, by omega⟩

/-- Inside the envelope `x3b` does not wrap (R128). -/
theorem pX3b_eq_exact : pX3b c b5 = (sval c.ac3 * (b5 - 4000) / 2 ^ 13
    + sval c.b1 * ((b5 - 4000) * (b5 - 4000) / 2 ^ 12) / 2 ^ 16 + 2) / 2 ^ 2 := by
  have hx1 := coef_mul_b6_range hlo hhi c.ac3
  have hx2 := coef_mul_sq_range hlo hhi c.b1
  rw [pX3b, pX1b, pX2b, pB6_eq_exact hlo hhi, pSq_eq_exact hlo hhi,
    wrapS_eq_self (z := sval c.ac3 * _) (by omega) (by omega),
    wrapS_eq_self (z := sval c.b1 * _) (by omega) (by omega),
    wrapS_eq_self (z := sval c.ac3 * _ / _ + _) (by omega) (by omega),
    wrapS_eq_self (by omega) (by omega)]

/-- The range of `x3b` inside the envelope. -/
theorem pX3b_range : -10240 ≤ pX3b c b5 ∧ pX3b c b5 ≤ 10240 := by
  have hx1 := coef_mul_b6_range hlo hhi c.ac3
  have hx2 := coef_mul_sq_range hlo hhi c.b1
  rw [pX3b_eq_exact hlo hhi]
  omega

/-- Inside the envelope `m4` is its intended value, which is positive (R116, R128). -/
theorem pM4_eq_exact : pM4 c b5 = pX3b c b5 + 32768 := by
  have hx3b := pX3b_range (c := c) hlo hhi
  unfold pM4 wrapU
  omega

/-- The product of R116 inside the envelope. -/
theorem b4_product_range :
    0 ≤ uval c.ac4 * (pX3b c b5 + 32768) ∧ uval c.ac4 * (pX3b c b5 + 32768) ≤ 65535 * 43008 := by
  have hac4 := uval_range c.ac4
  have hx3b := pX3b_range (c := c) hlo hhi
  exact ⟨mul_nonneg hac4.1 (by omega),
    (mul_range (a := 65535) (b := 43008) ⟨by omega, hac4.2⟩ ⟨by omega, by omega⟩).2⟩

/-- Inside the envelope `b4` does not wrap (R128). -/
theorem pB4_eq_exact : pB4 c b5 = pB4Exact c b5 := by
  have hprod := b4_product_range (c := c) hlo hhi
  have hwrap : wrapU (uval c.ac4 * (pX3b c b5 + 32768)) = uval c.ac4 * (pX3b c b5 + 32768) := by
    unfold wrapU
    omega
  rw [pB4, pM4_eq_exact hlo hhi, hwrap, pX3b_eq_exact hlo hhi, pB4Exact]

/-- Inside the envelope `b4` is no negative number. -/
theorem pB4Exact_nonneg : 0 ≤ pB4Exact c b5 := by
  have hprod := b4_product_range (c := c) hlo hhi
  rw [← pB4_eq_exact hlo hhi, pB4, pM4_eq_exact hlo hhi]
  unfold wrapU
  omega

/-- Inside the envelope the check of R118 fails exactly for a negative `b3` or a smaller raw
pressure. -/
theorem difference_check_iff (hoss : oss ≤ 3) (hup : 0 ≤ up) (hmax : up ≤ 524287) :
    wrapU up < wrapU (pB3 c oss b5) ↔ pB3Exact c oss b5 < 0 ∨ up < pB3Exact c oss b5 := by
  have hb3 := pB3Exact_range (c := c) hlo hhi hoss
  rw [pB3_eq_exact hlo hhi hoss]
  unfold wrapU
  omega

end Envelope

/-- The raw pressure of a level times its scale fits in 32 bits (R92, R128). -/
theorem raw_mul_scale_range {oss : Nat} {d up : Int} (hoss : oss ≤ 3) (hd : 0 ≤ d) (hle : d ≤ up)
    (hmax : up ≤ 2 ^ (16 + oss) - 1) :
    0 ≤ d * (50000 / 2 ^ oss) ∧ d * (50000 / 2 ^ oss) < 4294967296 := by
  interval_cases oss <;> norm_num at hmax ⊢ <;> omega

/-- A quotient of R121 that is small enough is not wrapped (R128). -/
theorem wrapS_pPu {b7 b4 : Int} (hb7 : 0 ≤ b7) (hb4 : 0 ≤ b4)
    (hmax : (if b7 < 0x80000000 then b7 * 2 / b4 else b7 / b4 * 2) ≤ 215295) :
    wrapS (pPu b7 b4) = if b7 < 0x80000000 then b7 * 2 / b4 else b7 / b4 * 2 := by
  have hdouble : 0 ≤ b7 * 2 / b4 := Int.ediv_nonneg (by omega) hb4
  have hquot : 0 ≤ b7 / b4 := Int.ediv_nonneg hb7 hb4
  unfold pPu wrapU wrapS
  split_ifs at hmax ⊢ <;> omega

/-- The pressure of a quotient inside the envelope is not wrapped, and passes the check of R123
(R128). -/
theorem pFromP_eq_exact {p : Int} (hlo : 0 ≤ p) (hhi : p ≤ 215295) :
    pFromP p = some (pTailExact p) := by
  have hps : 0 ≤ p / 2 ^ 8 ∧ p / 2 ^ 8 ≤ 840 := by omega
  have hsquare : 0 ≤ p / 2 ^ 8 * (p / 2 ^ 8) ∧ p / 2 ^ 8 * (p / 2 ^ 8) ≤ 705600 :=
    ⟨mul_self_nonneg _, by nlinarith⟩
  rw [pFromP, if_neg (by omega), pTail,
    wrapS_eq_self (z := p / 2 ^ 8 * (p / 2 ^ 8) * 3038) (by omega) (by omega),
    wrapS_eq_self (z := -7357 * p) (by omega) (by omega),
    wrapS_eq_self (z := _ / 2 ^ 16 + _ / 2 ^ 16) (by omega) (by omega),
    wrapS_eq_self (z := _ / 2 ^ 16 + _ / 2 ^ 16 + 3791) (by omega) (by omega),
    wrapS_eq_self (by omega) (by omega), pTailExact]

/-- Inside the envelope the rules give the pressure over the integers (R128). -/
theorem pressureRule_eq_exact {c : Cal} {oss : Nat} {up b5 : Int} (hlo : -4192 ≤ b5)
    (hhi : b5 ≤ 12192) (hoss : oss ≤ 3) (hup : 0 ≤ up) (hmax : up ≤ 2 ^ (16 + oss) - 1)
    (hquot : pQuotExact c oss up b5 ≤ 215295) :
    pressureRule c oss up b5 = pressureExact c oss up b5 := by
  have hmax' : up ≤ 524287 := by interval_cases oss <;> norm_num at hmax <;> omega
  have hdifference := difference_check_iff (c := c) hlo hhi hoss hup hmax'
  unfold pressureRule pressureExact
  by_cases hfails : pB3Exact c oss b5 < 0 ∨ up < pB3Exact c oss b5
  · rw [if_pos (hdifference.mpr hfails), if_pos hfails]
  · rw [if_neg (mt hdifference.mp hfails), if_neg hfails, pB4_eq_exact hlo hhi]
    by_cases hzero : pB4Exact c b5 = 0
    · rw [if_pos hzero, if_pos hzero]
    · rw [if_neg hzero, if_neg hzero]
      have hb4 := pB4Exact_nonneg (c := c) hlo hhi
      have hb7 := raw_mul_scale_range (d := up - pB3Exact c oss b5) hoss (by omega) (by omega) hmax
      have hb7eq : pB7 c oss up b5 = (up - pB3Exact c oss b5) * (50000 / 2 ^ oss) := by
        have hup' : wrapU up = up := by
          unfold wrapU
          omega
        have hb3' : wrapU (pB3Exact c oss b5) = pB3Exact c oss b5 := by
          unfold wrapU
          omega
        rw [pB7, pB3_eq_exact hlo hhi hoss, hup', hb3']
        unfold wrapU
        omega
      have hnonneg : 0 ≤ pQuotExact c oss up b5 := by
        unfold pQuotExact
        have hdouble := Int.ediv_nonneg (Int.mul_nonneg hb7.1 (by decide : (0 : Int) ≤ 2)) hb4
        have hsingle := Int.ediv_nonneg hb7.1 hb4
        split_ifs <;> omega
      rw [hb7eq, wrapS_pPu hb7.1 hb4 hquot]
      exact pFromP_eq_exact hnonneg hquot

end Sys2Proof.Rules

namespace Sys2Proof.Machine
open Rules

/-- The pressure reads the level and six coefficients (R110). -/
theorem pressure_congr {c c' : Cal} (hac1 : c.ac1 = c'.ac1) (hac2 : c.ac2 = c'.ac2)
    (hac3 : c.ac3 = c'.ac3) (hac4 : c.ac4 = c'.ac4) (hb1 : c.b1 = c'.b1) (hb2 : c.b2 = c'.b2)
    (oss : BitVec 2) (up b5 : Word) : pressure c oss up b5 = pressure c' oss up b5 := by
  have value (k : Coef) (hk : c.raw k = c'.raw k) : c.value k = c'.value k := by
    rw [Cal.value, Cal.value, hk]
  have hb3 : pressB3 c oss b5 = pressB3 c' oss b5 := by
    rw [pressB3, pressB3, pressX3, pressX3, pressX1, pressX1, pressX2, pressX2, value .ac1 hac1,
      value .ac2 hac2, value .b2 hb2]
  have hb4 : pressB4 c b5 = pressB4 c' b5 := by
    rw [pressB4, pressB4, pressM4, pressM4, pressX3b, pressX3b, pressX1b, pressX1b, pressX2b, pressX2b,
      value .ac4 hac4, value .ac3 hac3, value .b1 hb1]
  have hdq (dq : Word) : pressFromDq c oss b5 dq = pressFromDq c' oss b5 dq := by
    rw [pressFromDq, pressFromDq, hb4]
  simp only [pressure, hb3, hdq]

/-- The temperature's divisor and `b5` read four coefficients (R106). -/
theorem temp_congr {c c' : Cal} (hac5 : c.ac5 = c'.ac5) (hac6 : c.ac6 = c'.ac6) (hmc : c.mc = c'.mc)
    (hmd : c.md = c'.md) (ut : Word) : tempDen c ut = tempDen c' ut ∧ tempB5 c ut = tempB5 c' ut := by
  have value (k : Coef) (hk : c.raw k = c'.raw k) : c.value k = c'.value k := by
    rw [Cal.value, Cal.value, hk]
  have hx1 : tempX1 c ut = tempX1 c' ut := by
    rw [tempX1, tempX1, value .ac6 hac6, value .ac5 hac5]
  have hden : tempDen c ut = tempDen c' ut := by rw [tempDen, tempDen, hx1, value .md hmd]
  refine ⟨hden, ?_⟩
  rw [tempB5, tempB5, hx1, tempX2, tempX2, hden, value .mc hmc]

end Sys2Proof.Machine

namespace Sys2Proof
open Machine Rules

/-- Settles O20: the divisor of the unit is that of R102. -/
theorem compTRaisesTempDivZero : Obligations.CompTRaisesTempDivZero := by
  intro a b s hden
  rcases compT_effect a s with ⟨-, hnext⟩ | ⟨hne, -⟩
  · rw [exec_compT, hnext]
  · exact absurd ((tempDen_eq_zero_iff s.cal a).mpr hden) hne

/-- Settles O21: both divisors are products with a zero coefficient. -/
theorem zeroCalibrationFailsByValue : Obligations.ZeroCalibrationFailsByValue := by
  intro a b s hcal
  exact ⟨compTRaisesTempDivZero a b s (by rw [hcal, tDen_zero]),
    compPRaisesInvalidCalibration a b s (by rw [hcal, pressureRule_zero])⟩

/-- Settles O22: inside the envelope each step of the rules is the step over the integers. -/
theorem compTIsExactInItsEnvelope : Obligations.CompTIsExactInItsEnvelope := by
  intro a b s hlo hhi hac5 hden
  have hb5 := tB5Exact_range hlo hhi hac5
  have ht10 : tT10 s.cal a.toInt = (tB5Exact s.cal a.toInt + 8) / 2 ^ 4 := by
    rw [tT10, tB5_eq_exact hlo hhi hac5, wrapS_eq_self (by omega) (by omega)]
  rw [← ht10, ← tB5_eq_exact hlo hhi hac5]
  rw [← tDen_eq_exact hlo hhi hac5] at hden
  exact compTAnswersTemperatureAndB5 a b s hden

/-- Settles O26: inside the envelope the rules give the pressure over the integers, or none where that
has none, and the unit answers what the rules give. -/
theorem compPIsExactInItsEnvelope : Obligations.CompPIsExactInItsEnvelope := by
  intro a b s hlo hhi hup hmax hquot
  have hrule := pressureRule_eq_exact hlo hhi (Nat.le_of_lt_succ s.oss.isLt) hup hmax hquot
  rcases hexact : pressureExact s.cal s.oss.toNat a.toInt b.toInt with _ | p <;> rw [hexact] at hrule
  · exact compPRaisesInvalidCalibration a b s hrule
  · exact (compPAnswersThePressure a b s p hrule).1

/-- Settles O27: the unit has a pressure exactly when the square fits, which is a range of `p`. -/
theorem squareCheckPassesExactlyInItsRange : Obligations.SquareCheckPassesExactlyInItsRange := by
  intro p
  rw [← square_fits_iff, ← Option.isSome_map (f := BitVec.toInt), map_toInt_pressFromP, pFromP]
  split_ifs with hover
  · simp only [Option.isSome_none, Bool.false_eq_true, false_iff]
    omega
  · simp only [Option.isSome_some, true_iff]
    omega

/-- Settles O28: the checks and the results of either compensation read its own coefficients. -/
theorem compensationReadsOnlyItsCoefficients : Obligations.CompensationReadsOnlyItsCoefficients := by
  intro a b s s' t t'
  constructor
  · intro hoss hac1 hac2 hac3 hac4 hb1 hb2 hnext hnext'
    have hpressure := pressure_congr hac1 hac2 hac3 hac4 hb1 hb2 s'.oss a b
    rw [exec_compP] at hnext hnext'
    cases hnext
    cases hnext'
    rw [compPNext, compPNext, hoss, hpressure]
    split <;> rfl
  · intro hac5 hac6 hmc hmd hnext hnext'
    obtain ⟨hden, hb5⟩ := temp_congr hac5 hac6 hmc hmd a
    rw [exec_compT] at hnext hnext'
    cases hnext
    cases hnext'
    rw [compTNext, compTNext, hden, hb5]
    split <;> rfl

end Sys2Proof
end

section
/-! PROOF. Binary32 (spec/40_arithmetic_laws.md R67 to R69, spec/43_temperature.md R105): a rounding takes
the nearest whole number of steps of its scale, and every other finite value is a whole number of such steps
too, or lies below all quotients of that scale. -/

namespace Sys2Proof.Machine

/-! ## Rounding to a natural number -/

/-- A quotient rounded is the quotient rounded down, or that and one. -/
theorem divNearestEven_cases (n d : Nat) :
    divNearestEven n d = n / d ∨ divNearestEven n d = n / d + 1 := by
  unfold divNearestEven
  split
  · exact .inr rfl
  · exact .inl rfl

/-- A whole quotient is not rounded. -/
theorem divNearestEven_of_dvd {n d : Nat} (hd : 0 < d) (h : d ∣ n) : divNearestEven n d = n / d := by
  have hmod := Nat.mod_eq_zero_of_dvd h
  unfold divNearestEven
  rw [if_neg (by omega)]

/-- An error of one half is a tie. -/
theorem tie_of_half_error {n d : Nat}
    (h : 2 * d * divNearestEven n d = 2 * n + d ∨ 2 * n = 2 * d * divNearestEven n d + d) (hd : 0 < d) :
    2 * (n % d) = d := by
  have hdiv := Nat.div_add_mod n d
  have hlt := Nat.mod_lt n hd
  rcases divNearestEven_cases n d with hm | hm <;> rw [hm] at h
  · have hprod : 2 * d * (n / d) = 2 * (d * (n / d)) := by ring
    omega
  · have hprod : 2 * d * (n / d + 1) = 2 * (d * (n / d)) + 2 * d := by ring
    omega

/-- The error of rounding a quotient, in rational numbers. -/
theorem abs_divNearestEven_sub_le {n d : Nat} (hd : 0 < d) :
    |(divNearestEven n d : Rat) - n / d| ≤ 1 / 2 := by
  obtain ⟨hhi, hlo⟩ := divNearestEven_error (n := n) hd
  have hd' : (0 : Rat) < d := by exact_mod_cast hd
  have hhi' : (2 * d * divNearestEven n d : Rat) ≤ 2 * n + d := by exact_mod_cast hhi
  have hlo' : (2 * n : Rat) ≤ 2 * d * divNearestEven n d + d := by exact_mod_cast hlo
  have hquot : (n : Rat) / d * d = n := div_mul_cancel₀ _ hd'.ne'
  rw [abs_le]
  constructor <;> nlinarith

/-- Only a tie has an error of one half. -/
theorem divNearestEven_even_of_half {n d : Nat} (hd : 0 < d)
    (h : |(divNearestEven n d : Rat) - n / d| = 1 / 2) : divNearestEven n d % 2 = 0 := by
  refine divNearestEven_tie_even (tie_of_half_error ?_ hd)
  have hd' : (d : Rat) ≠ 0 := by exact_mod_cast hd.ne'
  rcases abs_eq (by norm_num : (0 : Rat) ≤ 1 / 2) |>.mp h with h | h <;> field_simp at h
  · left
    have hq : (2 * d * divNearestEven n d : Rat) = 2 * n + d := by linarith
    exact_mod_cast hq
  · right
    have hq : (2 * n : Rat) = 2 * d * divNearestEven n d + d := by linarith
    exact_mod_cast hq

/-- No integer is nearer to a quotient than the quotient rounded, and if another is equally near the
quotient rounded is even. -/
theorem divNearestEven_nearest {n d : Nat} (hd : 0 < d) (k : Int) :
    |(divNearestEven n d : Rat) - n / d| ≤ |(k : Rat) - n / d|
    ∧ (|(divNearestEven n d : Rat) - n / d| = |(k : Rat) - n / d| → k ≠ divNearestEven n d →
      divNearestEven n d % 2 = 0) := by
  have herr := abs_divNearestEven_sub_le (n := n) hd
  by_cases hk : k = divNearestEven n d
  · rw [hk]
    exact ⟨le_refl _, fun _ hne => absurd rfl hne⟩
  · have hgap : (1 : Rat) ≤ |(k : Rat) - divNearestEven n d| := by
      exact_mod_cast Int.one_le_abs (sub_ne_zero.mpr hk)
    have htriangle := abs_sub_le (k : Rat) (n / d) (divNearestEven n d)
    rw [abs_sub_comm ((n : Rat) / d)] at htriangle
    exact ⟨by linarith, fun heq _ => divNearestEven_even_of_half hd (by linarith)⟩

/-! ## The scale of a rounding and its significand -/

/-- The scale at which `n / d` is rounded. -/
def F32.scaleOf (n d : Nat) : Nat := F32.scale (n * 2 ^ 149 / d)

/-- The significand of `n / d` rounded: a whole number of steps of the scale. -/
def F32.significand (n d : Nat) : Nat := divNearestEven (n * 2 ^ 149) (d * 2 ^ F32.scaleOf n d)

/-- The 31 low bits of a rounded value, by its scale and significand. -/
theorem F32.roundLow_eq (n d : Nat) :
    F32.roundLow n d = min (F32.scaleOf n d * 2 ^ 23 + F32.significand n d) F32.infLow := rfl

/-- A quotient lies below the end of its scale. -/
theorem F32.quotient_lt (n d : Nat) : n * 2 ^ 149 / d < 2 ^ (24 + F32.scaleOf n d) := by
  have hlt := Nat.lt_log2_self (n := n * 2 ^ 149 / d)
  refine hlt.trans_le (Nat.pow_le_pow_right (by decide) ?_)
  unfold F32.scaleOf F32.scale
  omega

/-- A quotient at a scale that is not the least reaches the beginning of the scale. -/
theorem F32.le_quotient {n d : Nat} (h : F32.scaleOf n d ≠ 0) :
    2 ^ (23 + F32.scaleOf n d) ≤ n * 2 ^ 149 / d := by
  unfold F32.scaleOf F32.scale at h ⊢
  have hne : n * 2 ^ 149 / d ≠ 0 := by
    intro hzero
    rw [hzero, Nat.log2_zero] at h
    omega
  exact (Nat.pow_le_pow_right (by decide) (by omega)).trans (Nat.log2_self_le hne)

/-- The significand is the quotient in steps of the scale, rounded down, or that and one. -/
theorem F32.significand_cases (n d : Nat) :
    F32.significand n d = n * 2 ^ 149 / d / 2 ^ F32.scaleOf n d
      ∨ F32.significand n d = n * 2 ^ 149 / d / 2 ^ F32.scaleOf n d + 1 := by
  rw [Nat.div_div_eq_div_mul]
  exact divNearestEven_cases _ _

/-- A significand has 24 bits, or is the power after them (R67). -/
theorem F32.significand_le (n d : Nat) : F32.significand n d ≤ 2 ^ 24 := by
  have hlt : n * 2 ^ 149 / d / 2 ^ F32.scaleOf n d < 2 ^ 24 := by
    rw [Nat.div_lt_iff_lt_mul (by positivity), ← pow_add]
    exact F32.quotient_lt n d
  rcases F32.significand_cases n d with h | h <;> omega

/-- At a scale that is not the least the significand has its leading bit (R67). -/
theorem F32.le_significand {n d : Nat} (h : F32.scaleOf n d ≠ 0) : 2 ^ 23 ≤ F32.significand n d := by
  have hle : 2 ^ 23 ≤ n * 2 ^ 149 / d / 2 ^ F32.scaleOf n d := by
    rw [Nat.le_div_iff_mul_le (by positivity), ← pow_add]
    exact F32.le_quotient h
  rcases F32.significand_cases n d with h | h <;> omega

/-- A scale that the exponent field can hold gives a finite value. -/
theorem F32.isFinite_round {neg : Bool} {n d : Nat} (h : F32.scaleOf n d ≤ 252) :
    F32.isFinite (F32.round neg n d) = true := by
  have hsig := F32.significand_le n d
  have hlow := F32.roundLow_eq n d
  have hlt := F32.roundLow_lt n d
  rw [F32.isFinite, F32.round, F32.expField_pack hlt, bne_iff_ne]
  omega

/-- The 31 low bits of a value rounded to a finite one. -/
theorem F32.roundLow_of_isFinite {neg : Bool} {n d : Nat}
    (h : F32.isFinite (F32.round neg n d) = true) :
    F32.roundLow n d = F32.scaleOf n d * 2 ^ 23 + F32.significand n d := by
  have hlow := F32.roundLow_eq n d
  have hlt := F32.roundLow_lt n d
  rw [F32.isFinite, F32.round, F32.expField_pack hlt, bne_iff_ne] at h
  simp only [F32.infLow] at hlow
  omega

/-- A significand put into the pattern at a scale stands for that many steps: a carry out of it moves into
the exponent (R67). -/
theorem F32.units_pack_scaled {neg : Bool} {s m : Nat} (hlt : s * 2 ^ 23 + m < 2 ^ 31) (hm : m ≤ 2 ^ 24)
    (hlead : s ≠ 0 → 2 ^ 23 ≤ m) : F32.units (F32.pack neg (s * 2 ^ 23 + m)) = m * 2 ^ s := by
  rw [F32.units_pack hlt]
  by_cases hsub : m < 2 ^ 23
  · obtain rfl : s = 0 := by
      by_contra hs
      have := hlead hs
      omega
    rw [if_pos (by omega)]
    omega
  · by_cases hcarry : m = 2 ^ 24
    · subst hcarry
      rw [show (s * 2 ^ 23 + 2 ^ 24) / 2 ^ 23 = s + 2 by omega,
        show (s * 2 ^ 23 + 2 ^ 24) % 2 ^ 23 = 0 by omega, if_neg (by omega)]
      rw [show s + 2 - 1 = s + 1 by omega, pow_succ]
      omega
    · rw [show (s * 2 ^ 23 + m) / 2 ^ 23 = s + 1 by omega,
        show (s * 2 ^ 23 + m) % 2 ^ 23 = m - 2 ^ 23 by omega, if_neg (by omega),
        show 2 ^ 23 + (m - 2 ^ 23) = m by omega, Nat.add_sub_cancel]

/-- The magnitude of a value rounded to a finite one. -/
theorem F32.units_round {neg : Bool} {n d : Nat} (h : F32.isFinite (F32.round neg n d) = true) :
    F32.units (F32.round neg n d) = F32.significand n d * 2 ^ F32.scaleOf n d := by
  have hlow := F32.roundLow_of_isFinite h
  have hlt := F32.roundLow_lt n d
  rw [hlow] at hlt
  rw [F32.round, hlow]
  exact F32.units_pack_scaled hlt (F32.significand_le n d) F32.le_significand

/-- The parity of a rounded value's pattern is that of its significand. -/
theorem F32.toNat_round_mod_two {neg : Bool} {n d : Nat}
    (h : F32.isFinite (F32.round neg n d) = true) :
    (F32.round neg n d).toNat % 2 = F32.significand n d % 2 := by
  have hlow := F32.roundLow_of_isFinite h
  rw [F32.round, F32.toNat_pack (F32.roundLow_lt n d), hlow]
  split <;> omega

/-! ## The values a rounding is compared with -/

/-- Any magnitude is a whole number of steps of a scale, or lies below the scale. -/
theorem F32.units_dvd_or_lt (y : F32) (s : Nat) :
    2 ^ s ∣ F32.units y ∨ (s ≠ 0 ∧ F32.units y < 2 ^ (23 + s)) := by
  have hfrac : F32.fraction y < 2 ^ 23 := (y.extractLsb' 0 23).isLt
  unfold F32.units
  split_ifs with hexp
  · by_cases hs : s = 0
    · left
      rw [hs]
      exact one_dvd _
    · exact .inr ⟨hs, hfrac.trans_le (Nat.pow_le_pow_right (by decide) (by omega))⟩
  · by_cases hs : s ≤ F32.expField y - 1
    · exact .inl ((pow_dvd_pow 2 hs).mul_left _)
    · refine .inr ⟨by omega, ?_⟩
      calc (2 ^ 23 + F32.fraction y) * 2 ^ (F32.expField y - 1)
          < 2 ^ 24 * 2 ^ (F32.expField y - 1) := by gcongr; omega
        _ = 2 ^ (24 + (F32.expField y - 1)) := (pow_add _ _ _).symm
        _ ≤ 2 ^ (23 + s) := Nat.pow_le_pow_right (by decide) (by omega)

/-- The quotient `n / d` in units of 2^-149, not rounded. -/
def F32.exactUnits (n d : Nat) : Rat := n * 2 ^ 149 / d

/-- The quotient `n / d` rounded, in units of 2^-149. -/
def F32.roundedUnits (n d : Nat) : Rat := F32.significand n d * 2 ^ F32.scaleOf n d

/-- A distance from the quotient, in steps of the scale. -/
theorem F32.abs_steps_sub_exactUnits {n d : Nat} (hd : 0 < d) (k : Rat) :
    |k * 2 ^ F32.scaleOf n d - F32.exactUnits n d|
      = |k - ((n * 2 ^ 149 : Nat) : Rat) / (d * 2 ^ F32.scaleOf n d : Nat)| * 2 ^ F32.scaleOf n d := by
  have hd' : (d : Rat) ≠ 0 := by exact_mod_cast hd.ne'
  have hstep : (0 : Rat) < 2 ^ F32.scaleOf n d := by positivity
  have hquot : ((n * 2 ^ 149 : Nat) : Rat) / (d * 2 ^ F32.scaleOf n d : Nat) * 2 ^ F32.scaleOf n d
      = F32.exactUnits n d := by
    simp only [F32.exactUnits, Nat.cast_mul, Nat.cast_pow, Nat.cast_ofNat]
    field_simp
  rw [← hquot, ← sub_mul, abs_mul, abs_of_pos hstep]

/-- No whole number of steps is nearer to the quotient than the rounded one, and if another is equally
near the significand is even. -/
theorem F32.roundedUnits_nearest_step {n d : Nat} (hd : 0 < d) (k : Int) :
    |F32.roundedUnits n d - F32.exactUnits n d|
        ≤ |(k : Rat) * 2 ^ F32.scaleOf n d - F32.exactUnits n d|
    ∧ (|F32.roundedUnits n d - F32.exactUnits n d|
          = |(k : Rat) * 2 ^ F32.scaleOf n d - F32.exactUnits n d| →
        (k : Rat) * 2 ^ F32.scaleOf n d ≠ F32.roundedUnits n d → F32.significand n d % 2 = 0) := by
  have hstep : (0 : Rat) < 2 ^ F32.scaleOf n d := by positivity
  obtain ⟨hle, htie⟩ := divNearestEven_nearest (n := n * 2 ^ 149) (d := d * 2 ^ F32.scaleOf n d)
    (by positivity) k
  rw [F32.roundedUnits, F32.abs_steps_sub_exactUnits hd, F32.abs_steps_sub_exactUnits hd]
  refine ⟨mul_le_mul_of_nonneg_right hle hstep.le, fun heq hne => ?_⟩
  refine htie (mul_right_cancel₀ hstep.ne' heq) fun hk => hne ?_
  rw [hk, F32.significand, Int.cast_natCast]

/-- What lies below a scale that is not the least is farther from the quotient than the rounded one. -/
theorem F32.roundedUnits_nearer_than_below {n d : Nat} (hd : 0 < d) (hs : F32.scaleOf n d ≠ 0) {z : Rat}
    (hz : z < 2 ^ (23 + F32.scaleOf n d)) :
    |F32.roundedUnits n d - F32.exactUnits n d| < |z - F32.exactUnits n d| := by
  have hbegin : 2 ^ (23 + F32.scaleOf n d) ≤ F32.exactUnits n d := by
    rw [F32.exactUnits, le_div_iff₀ (by exact_mod_cast hd)]
    exact_mod_cast (Nat.le_div_iff_mul_le hd).mp (F32.le_quotient hs)
  calc |F32.roundedUnits n d - F32.exactUnits n d|
      ≤ |((2 ^ 23 : Int) : Rat) * 2 ^ F32.scaleOf n d - F32.exactUnits n d| :=
        (F32.roundedUnits_nearest_step hd (2 ^ 23)).1
    _ = F32.exactUnits n d - 2 ^ (23 + F32.scaleOf n d) := by
        rw [Int.cast_pow, Int.cast_ofNat, ← pow_add, abs_of_nonpos (by linarith), neg_sub]
    _ < F32.exactUnits n d - z := by linarith
    _ = |z - F32.exactUnits n d| := by rw [abs_of_neg (by linarith), neg_sub]

/-- No finite value, of either sign, is nearer to the quotient than the rounded one, and if another is
equally near the significand is even. All in units of 2^-149. -/
theorem F32.roundedUnits_nearest {n d : Nat} (hd : 0 < d) {z : Int} {y : F32}
    (hz : z.natAbs = F32.units y) :
    |F32.roundedUnits n d - F32.exactUnits n d| ≤ |(z : Rat) - F32.exactUnits n d|
    ∧ (|F32.roundedUnits n d - F32.exactUnits n d| = |(z : Rat) - F32.exactUnits n d| →
        (z : Rat) ≠ F32.roundedUnits n d → F32.significand n d % 2 = 0) := by
  rcases F32.units_dvd_or_lt y (F32.scaleOf n d) with hdvd | ⟨hs, hlt⟩
  · obtain ⟨k, hk⟩ : (2 : Int) ^ F32.scaleOf n d ∣ z := by
      rw [← hz, ← Int.natCast_dvd] at hdvd
      exact_mod_cast hdvd
    have hsteps : (z : Rat) = k * 2 ^ F32.scaleOf n d := by
      rw [hk, Int.cast_mul, Int.cast_pow, Int.cast_ofNat, mul_comm]
    rw [hsteps]
    exact F32.roundedUnits_nearest_step hd k
  · have hbelow : z < 2 ^ (23 + F32.scaleOf n d) := by
      have hz' : z ≤ (F32.units y : Int) := by omega
      exact hz'.trans_lt (by exact_mod_cast hlt)
    have hfarther := F32.roundedUnits_nearer_than_below hd hs (z := z) (by exact_mod_cast hbelow)
    exact ⟨hfarther.le, fun heq => absurd heq hfarther.ne⟩

/-! ## Values -/

/-- The sign of a value as a factor. -/
def F32.signFactor (neg : Bool) : Int := if neg then -1 else 1

/-- The value of a finite pattern is its signed magnitude in units. -/
theorem F32.value_eq (x : F32) :
    F32.value x = (F32.signFactor (F32.sign x) * F32.units x : Int) / 2 ^ 149 := by
  rw [F32.value, F32.signedUnits, F32.signFactor]
  split <;> simp

/-- The value of a quotient rounded to a finite one. -/
theorem F32.value_round {neg : Bool} {n d : Nat} (h : F32.isFinite (F32.round neg n d) = true) :
    F32.value (F32.round neg n d) = F32.signFactor neg * F32.roundedUnits n d / 2 ^ 149 := by
  rw [F32.value_eq, F32.sign_round, F32.units_round h, F32.roundedUnits]
  simp only [Int.cast_mul, Nat.cast_mul, Nat.cast_pow, Nat.cast_ofNat, Int.cast_natCast, Int.cast_pow,
    Int.cast_ofNat]

/-- The signed quotient in units. -/
theorem F32.signed_quotient (neg : Bool) (n d : Nat) :
    (if neg then -((n : Rat) / d) else (n : Rat) / d)
      = F32.signFactor neg * F32.exactUnits n d / 2 ^ 149 := by
  have hunits : F32.exactUnits n d / 2 ^ 149 = n / d := by
    rw [F32.exactUnits]
    field_simp
  rw [mul_div_assoc, hunits, F32.signFactor]
  split <;> simp

/-- A sign factor twice is none. -/
theorem F32.signFactor_mul_self (neg : Bool) :
    (F32.signFactor neg : Rat) * F32.signFactor neg = 1 := by
  cases neg <;> norm_num [F32.signFactor]

/-- A distance from a signed quotient is the distance of the magnitudes from the quotient, in units. -/
theorem F32.abs_sub_signed_quotient (neg : Bool) (n d : Nat) (u : Rat) :
    |u / 2 ^ 149 - (if neg then -((n : Rat) / d) else (n : Rat) / d)|
      = |F32.signFactor neg * u - F32.exactUnits n d| / 2 ^ 149 := by
  have hfactor : F32.signFactor neg * u - F32.exactUnits n d
      = F32.signFactor neg * (u - F32.signFactor neg * F32.exactUnits n d) := by
    rw [mul_sub, ← mul_assoc, F32.signFactor_mul_self, one_mul]
  have habs : |(F32.signFactor neg : Rat)| = 1 := by cases neg <;> norm_num [F32.signFactor]
  rw [F32.signed_quotient, ← sub_div, abs_div, hfactor, abs_mul, habs, one_mul,
    abs_of_pos (by positivity : (0 : Rat) < 2 ^ 149)]

end Sys2Proof.Machine

namespace Sys2Proof
open Machine

/-- Settles O35: in units and without the sign, the rounded value is the nearest of all signed
magnitudes, and the parity of its pattern is that of its significand. -/
theorem roundingIsToNearestEven : Obligations.RoundingIsToNearestEven := by
  intro neg n d y hd _ hfinite
  obtain ⟨hle, htie⟩ := F32.roundedUnits_nearest (n := n) hd (y := y)
    (z := F32.signFactor neg * (F32.signFactor (F32.sign y) * F32.units y)) (by
      cases neg <;> cases F32.sign y <;> simp [F32.signFactor])
  have hround : F32.signFactor neg * (F32.signFactor neg * F32.roundedUnits n d)
      = F32.roundedUnits n d := by rw [← mul_assoc, F32.signFactor_mul_self, one_mul]
  have hpos : (0 : Rat) < 2 ^ 149 := by positivity
  rw [F32.value_round hfinite, F32.value_eq y, F32.abs_sub_signed_quotient,
    F32.abs_sub_signed_quotient, hround, F32.toNat_round_mod_two hfinite]
  rw [Int.cast_mul] at hle htie
  refine ⟨div_le_div_of_nonneg_right hle hpos.le, fun heq hne => ?_⟩
  refine htie ((div_left_inj' hpos.ne').mp heq) fun hsame => hne ?_
  rw [← hsame, ← mul_assoc, F32.signFactor_mul_self, one_mul]

end Sys2Proof
end

section
/-! PROOF. Conversion, temperature and altitude (spec/40_arithmetic_laws.md R68, R69,
spec/43_temperature.md R105, spec/45_altitude.md R131 to R135): which roundings are exact and which are
finite, and what the property of the power function says of the altitude. -/

namespace Sys2Proof.Machine
open Rules

/-! ## Bounds of the scale -/

/-- A quotient below a power of two has a scale below it. -/
theorem F32.scaleOf_le {n d k : Nat} (h : n * 2 ^ 149 / d < 2 ^ (24 + k)) : F32.scaleOf n d ≤ k := by
  by_contra hlt
  have hbegin := F32.le_quotient (n := n) (d := d) (by omega)
  have hpow : (2 : Nat) ^ (24 + k) ≤ 2 ^ (23 + F32.scaleOf n d) :=
    Nat.pow_le_pow_right (by decide) (by omega)
  omega

/-- A quotient that reaches a power of two has a scale that does. -/
theorem F32.le_scaleOf {n d k : Nat} (h : 2 ^ (23 + k) ≤ n * 2 ^ 149 / d) : k ≤ F32.scaleOf n d := by
  have hend := F32.quotient_lt n d
  have hpow := (Nat.pow_lt_pow_iff_right (by decide : 1 < 2)).mp (h.trans_lt hend)
  omega

/-- A magnitude rounded to a finite value, between powers of two given by bounds of its scale. -/
theorem F32.units_round_range {neg : Bool} {n d lo hi : Nat}
    (hfinite : F32.isFinite (F32.round neg n d) = true) (hpos : lo ≠ 0)
    (hlo : lo ≤ F32.scaleOf n d) (hhi : F32.scaleOf n d ≤ hi) :
    2 ^ (23 + lo) ≤ F32.units (F32.round neg n d) ∧ F32.units (F32.round neg n d) ≤ 2 ^ (24 + hi) := by
  rw [F32.units_round hfinite, pow_add, pow_add]
  exact ⟨Nat.mul_le_mul (F32.le_significand (by omega)) (Nat.pow_le_pow_right (by decide) hlo),
    Nat.mul_le_mul (F32.significand_le n d) (Nat.pow_le_pow_right (by decide) hhi)⟩

/-- A quotient that is a whole number of steps of its scale is rounded exactly. -/
theorem F32.units_round_exact {neg : Bool} {n d : Nat} (hd : 0 < d)
    (hfinite : F32.isFinite (F32.round neg n d) = true)
    (hdvd : d * 2 ^ F32.scaleOf n d ∣ n * 2 ^ 149) :
    F32.units (F32.round neg n d) * d = n * 2 ^ 149 := by
  rw [F32.units_round hfinite, F32.significand, divNearestEven_of_dvd (by positivity) hdvd,
    Nat.mul_assoc, Nat.mul_comm _ d]
  exact Nat.div_mul_cancel hdvd

/-! ## Classes of values -/

/-- A value is a zero exactly when its magnitude is zero. -/
theorem F32.isZero_iff (x : F32) : F32.isZero x = true ↔ F32.units x = 0 := by
  rw [F32.isZero, Bool.and_eq_true, beq_iff_eq, beq_iff_eq, F32.units]
  split_ifs with hexp
  · simp [hexp]
  · have hpos : 0 < (2 ^ 23 + F32.fraction x) * 2 ^ (F32.expField x - 1) := by positivity
    constructor
    · exact fun h => absurd h.1 hexp
    · omega

/-- A value whose magnitude is positive is no zero. -/
theorem F32.isZero_of_units_pos {x : F32} (h : 0 < F32.units x) : F32.isZero x = false := by
  rw [← Bool.not_eq_true, F32.isZero_iff]
  omega

/-- A finite value is neither NaN nor an infinity. -/
theorem F32.not_nan_inf_of_isFinite {x : F32} (h : F32.isFinite x = true) :
    F32.isNan x = false ∧ F32.isInf x = false := by
  rw [F32.isFinite, bne_iff_ne] at h
  simp [F32.isNan, F32.isInf, h]

/-- The quotient of finite values, the divisor no zero, is rounded once (R67). -/
theorem F32.div_finite {a b : F32} (nan : F32) (ha : F32.isFinite a = true)
    (hb : F32.isFinite b = true) (hpos : 0 < F32.units b) :
    F32.div nan a b = F32.round (F32.sign a ^^ F32.sign b) (F32.units a) (F32.units b) := by
  obtain ⟨hnan, hinf⟩ := F32.not_nan_inf_of_isFinite ha
  obtain ⟨hnan', hinf'⟩ := F32.not_nan_inf_of_isFinite hb
  simp [F32.div, hnan, hnan', hinf, hinf', F32.isZero_of_units_pos hpos]

/-- The value of an unrounded quotient of finite values is the quotient of their values. -/
theorem F32.signed_units_quotient (a b : F32) :
    (if F32.sign a ^^ F32.sign b then -((F32.units a : Rat) / F32.units b)
      else (F32.units a : Rat) / F32.units b) = F32.value a / F32.value b := by
  rw [F32.value_eq, F32.value_eq, div_div_div_cancel_right₀ (by positivity)]
  cases F32.sign a <;> cases F32.sign b <;> simp [F32.signFactor, neg_div, div_neg]

/-! ## Conversion of an `i32` -/

/-- An `i32` is its sign times its magnitude. -/
theorem signFactor_mul_natAbs (v : Word) : F32.signFactor v.msb * (v.toInt.natAbs : Int) = v.toInt := by
  rw [BitVec.msb_eq_toInt, F32.signFactor]
  by_cases hneg : v.toInt < 0
  · rw [decide_eq_true hneg, if_pos rfl]
    omega
  · rw [decide_eq_false hneg, if_neg (by decide)]
    omega

/-- The scale an `i32` is converted at is at most 157. -/
theorem scaleOf_i32_le (v : Word) : F32.scaleOf v.toInt.natAbs 1 ≤ 157 := by
  have hlo := v.le_toInt
  have hhi := v.toInt_lt
  apply F32.scaleOf_le
  omega

/-- The scale an `i32` that is not zero is converted at is at least 126. -/
theorem le_scaleOf_i32 {v : Word} (hv : v ≠ 0) : 126 ≤ F32.scaleOf v.toInt.natAbs 1 := by
  have hne : v.toInt ≠ 0 := fun h => hv (BitVec.eq_of_toInt_eq h)
  apply F32.le_scaleOf
  omega

/-- An `i32` converts to a finite value (R68). -/
theorem F32.isFinite_ofI32 (v : Word) : F32.isFinite (F32.ofI32 v) = true :=
  F32.isFinite_round ((scaleOf_i32_le v).trans (by decide))

/-- The magnitude of a converted `i32` that is not zero, in units. -/
theorem F32.units_ofI32_range {v : Word} (hv : v ≠ 0) :
    2 ^ 149 ≤ F32.units (F32.ofI32 v) ∧ F32.units (F32.ofI32 v) ≤ 2 ^ 181 :=
  F32.units_round_range (F32.isFinite_ofI32 v) (by decide) (le_scaleOf_i32 hv) (scaleOf_i32_le v)

/-- The sign of a converted `i32` (R68). -/
theorem F32.sign_ofI32 (v : Word) : F32.sign (F32.ofI32 v) = v.msb := F32.sign_round _ _ _

/-- An `i32` of at most 24 bits is a whole number of steps of its scale (R68). -/
theorem scale_dvd_small {n : Nat} (h : n ≤ 2 ^ 24) : 2 ^ F32.scaleOf n 1 ∣ n * 2 ^ 149 := by
  rcases Nat.lt_or_eq_of_le h with hlt | rfl
  · have hscale : F32.scaleOf n 1 ≤ 149 := F32.scaleOf_le (by omega)
    exact (pow_dvd_pow 2 hscale).mul_left n
  · have hscale : F32.scaleOf (2 ^ 24) 1 ≤ 150 := F32.scaleOf_le (by decide)
    rw [← pow_add]
    exact pow_dvd_pow 2 (hscale.trans (by decide))

/-- The magnitude of a converted `i32` of at most 24 bits is exact (R68). -/
theorem F32.units_ofI32_small {v : Word} (h : v.toInt.natAbs ≤ 2 ^ 24) :
    F32.units (F32.ofI32 v) = v.toInt.natAbs * 2 ^ 149 := by
  have hexact := F32.units_round_exact (neg := v.msb) (n := v.toInt.natAbs) (d := 1) (by decide)
    (F32.isFinite_ofI32 v) (by rw [Nat.one_mul]; exact scale_dvd_small h)
  rwa [Nat.mul_one] at hexact

/-- The value of a converted `i32` of at most 24 bits is exact (R68). -/
theorem F32.value_ofI32_small {v : Word} (h : v.toInt.natAbs ≤ 2 ^ 24) :
    F32.value (F32.ofI32 v) = v.toInt := by
  rw [F32.value_eq, F32.sign_ofI32, F32.units_ofI32_small h, Nat.cast_mul, ← mul_assoc,
    signFactor_mul_natAbs, Int.cast_mul]
  simp only [Nat.cast_pow, Nat.cast_ofNat, Int.cast_pow, Int.cast_ofNat]
  exact mul_div_cancel_right₀ _ (by positivity)

/-! ## Constants -/

/-- The constant 10.0 is finite, and its magnitude and value are those of 10 (R69). -/
theorem F32.ten_facts : F32.isFinite F32.ten = true ∧ F32.units F32.ten = 10 * 2 ^ 149
    ∧ F32.value F32.ten = 10 := by decide +kernel

/-- The exponent `E` (R132). -/
theorem altExponent_eq : altExponent = 0x3E42DCAE := by decide +kernel

/-! ## The ratio of two pressures -/

/-- The ratio of a pressure to a reference that is not zero is rounded once (R131). -/
theorem altRatio_eq_round (nan : F32) (p : Word) {slp : Word} (h : slp ≠ 0) :
    altRatio nan p slp =
      F32.round (p.msb ^^ slp.msb) (F32.units (F32.ofI32 p)) (F32.units (F32.ofI32 slp)) := by
  have hpos : 0 < F32.units (F32.ofI32 slp) := by
    have hrange := F32.units_ofI32_range h
    omega
  rw [altRatio, F32.div_finite nan (F32.isFinite_ofI32 p) (F32.isFinite_ofI32 slp) hpos,
    F32.sign_ofI32, F32.sign_ofI32]

/-- A magnitude over itself is rounded to 1.0. -/
theorem F32.round_self {u : Nat} (h : 0 < u) : F32.round false u u = 0x3F800000 := by
  have hscale : F32.scaleOf u u = 126 := by
    rw [F32.scaleOf, Nat.mul_div_cancel_left _ h, F32.scale, Nat.log2_two_pow]
  have hsig : F32.significand u u = 2 ^ 23 := by
    have hsplit : u * 2 ^ 149 = u * 2 ^ 126 * 2 ^ 23 := by rw [Nat.mul_assoc, ← pow_add]
    rw [F32.significand, hscale, hsplit, divNearestEven_of_dvd (by positivity) (Nat.dvd_mul_right _ _),
      Nat.mul_div_cancel_left _ (by positivity)]
  rw [F32.round, F32.roundLow_eq, hscale, hsig]
  rfl

/-- The ratio of a negative pressure to a positive reference is finite and below zero (R135). -/
theorem altRatio_negative (nan : F32) {p slp : Word} (hp : p.toInt < 0) (hslp : 0 < slp.toInt) :
    altNegativeRatio (altRatio nan p slp) = true := by
  have hp0 : p ≠ 0 := by
    rintro rfl
    exact absurd hp (by decide)
  have hslp0 : slp ≠ 0 := by
    rintro rfl
    exact absurd hslp (by decide)
  have hneg : (p.msb ^^ slp.msb) = true := by
    rw [BitVec.msb_eq_toInt, BitVec.msb_eq_toInt, decide_eq_true hp, decide_eq_false (by omega)]
    rfl
  obtain ⟨hplo, hphi⟩ := F32.units_ofI32_range hp0
  obtain ⟨hslo, hshi⟩ := F32.units_ofI32_range hslp0
  rw [altRatio_eq_round nan p hslp0, hneg]
  generalize F32.units (F32.ofI32 p) = n at hplo hphi ⊢
  generalize F32.units (F32.ofI32 slp) = d at hslo hshi ⊢
  have hlo : 94 ≤ F32.scaleOf n d := by
    apply F32.le_scaleOf
    rw [Nat.le_div_iff_mul_le (by omega)]
    omega
  have hhi : F32.scaleOf n d ≤ 158 := by
    apply F32.scaleOf_le
    rw [Nat.div_lt_iff_lt_mul (by omega)]
    omega
  have hfinite : F32.isFinite (F32.round true n d) = true := F32.isFinite_round (hhi.trans (by decide))
  have hunits := (F32.units_round_range hfinite (by decide) hlo hhi).1
  have hzero : F32.isZero (F32.round true n d) = false := F32.isZero_of_units_pos (by omega)
  rw [altNegativeRatio, hfinite, F32.sign_round, hzero]
  rfl

/-- The ratio at the source's test point (R133). -/
theorem altRatio_test (nan : F32) : altRatio nan 93810 101325 = altTestRatio := by
  rw [altRatio_eq_round nan 93810 (by decide)]
  decide +kernel

/-! ## NaN patterns do not matter elsewhere -/

/-- Two subtractions that are given different NaN patterns answer the same, or each its pattern. -/
theorem F32.sub_nan_cases (nan nan' a b : F32) : F32.sub nan a b = F32.sub nan' a b
    ∨ (F32.sub nan a b = nan ∧ F32.sub nan' a b = nan') := by
  unfold F32.sub
  split_ifs
  · exact .inr ⟨rfl, rfl⟩
  · exact .inr ⟨rfl, rfl⟩
  · exact .inl rfl
  · exact .inl rfl
  · exact .inl rfl

/-- Two multiplications that are given different NaN patterns answer the same, or each its pattern. -/
theorem F32.mul_nan_cases (nan nan' a b : F32) : F32.mul nan a b = F32.mul nan' a b
    ∨ (F32.mul nan a b = nan ∧ F32.mul nan' a b = nan') := by
  unfold F32.mul
  split_ifs
  · exact .inr ⟨rfl, rfl⟩
  · exact .inr ⟨rfl, rfl⟩
  · exact .inl rfl
  · exact .inl rfl

/-- An altitude is the same whatever NaN patterns its operations are given, or it is NaN for all. -/
theorem altFromPower_nan_cases {n1 n2 m1 m2 : F32} (pw : F32) (hn1 : F32.isNan n1 = true)
    (hm1 : F32.isNan m1 = true) : altFromPower n1 n2 pw = altFromPower m1 m2 pw
      ∨ (altFromPower n1 n2 pw = n2 ∧ altFromPower m1 m2 pw = m2) := by
  unfold altFromPower
  rcases F32.sub_nan_cases n1 m1 F32.one pw with hsame | ⟨hsub, hsub'⟩
  · rw [hsame]
    exact F32.mul_nan_cases _ _ _ _
  · rw [hsub, hsub', F32.mul_nan _ _ hn1, F32.mul_nan _ _ hm1]
    exact .inr ⟨rfl, rfl⟩

/-- Whether an altitude is finite does not depend on the NaN patterns of its operations (R133), and a
finite one is the same for all. -/
theorem altFromPower_finite {n1 n2 m1 m2 pw : F32} (hn1 : F32.isNan n1 = true)
    (hm1 : F32.isNan m1 = true) (hn2 : F32.isNan n2 = true)
    (h : F32.isFinite (altFromPower n1 n2 pw) = true) :
    altFromPower m1 m2 pw = altFromPower n1 n2 pw := by
  rcases altFromPower_nan_cases (n2 := n2) (m2 := m2) pw hn1 hm1 with hsame | ⟨hnan, -⟩
  · exact hsame.symm
  · rw [hnan, F32.isFinite_of_isNan hn2] at h
    cases h

/-- An altitude within 0.5 of 645, in rational numbers (R133). -/
theorem near645_value {x : F32} (h : near645 x = true) :
    F32.isFinite x = true ∧ (1289 : Rat) / 2 ≤ F32.value x ∧ F32.value x ≤ (1291 : Rat) / 2 := by
  simp only [near645, Bool.and_eq_true, Bool.not_eq_true', decide_eq_true_eq] at h
  obtain ⟨⟨⟨hfinite, hsign⟩, hlo⟩, hhi⟩ := h
  have hlo' : (1289 * 2 ^ 148 : Rat) ≤ F32.units x := by exact_mod_cast hlo
  have hhi' : (F32.units x : Rat) ≤ 1291 * 2 ^ 148 := by exact_mod_cast hhi
  have hvalue : F32.value x = F32.units x / 2 ^ 149 := by
    rw [F32.value_eq, hsign]
    simp [F32.signFactor]
  rw [hvalue]
  exact ⟨hfinite, by rw [le_div_iff₀ (by positivity)]; linarith,
    by rw [div_le_iff₀ (by positivity)]; linarith⟩

/-- What the power of the test ratio gives (R133). -/
theorem near645_pow32 :
    near645 (altFromPower (F32.nanOf 0) (F32.nanOf 0) (pow32 altTestRatio altExponent)) = true := by
  have hlawful := powerLawful_pow32 altTestRatio altExponent
  rwa [powerLawful, if_pos rfl, if_pos rfl] at hlawful

/-- What the power of a ratio below zero gives (R133). -/
theorem altFromPower_negative_ratio {x : F32} (h : altNegativeRatio x = true) :
    F32.isFinite (altFromPower (F32.nanOf 0) (F32.nanOf 0) (pow32 x altExponent)) = false := by
  have hne : x ≠ altTestRatio := by
    rintro rfl
    exact absurd h (by decide)
  have hlawful := powerLawful_pow32 x altExponent
  rwa [powerLawful, if_pos rfl, if_neg hne, if_pos h, Bool.not_eq_true'] at hlawful

/-- A NaN pattern an altitude draws is NaN (R67). -/
theorem isNan_altNan (s : State) (i : Nat) : F32.isNan (altNan s i) = true := F32.isNan_nanOf _

/-- The answer of `COMP.ALT` for a pressure that is not zero (R130). -/
theorem exec_compAlt_ne_zero {a : Word} (b : Word) (s : State) (h : a ≠ 0) :
    exec (.compAlt a b) s = .next
      { s with
        draws := s.draws + 3
        response := some
          ⟨.ok, some (altitude (altNan s 0) (altNan s 1) (altNan s 2) a s.slp), none, none⟩ } := by
  rw [exec_compAlt, altitudeIn, if_neg h, respondOk_eq]
  rfl

end Sys2Proof.Machine

namespace Sys2Proof
open Machine Rules

/-- Settles O34: a magnitude of at most 24 bits is a whole number of steps of its scale. -/
theorem smallIntegersConvertExactly : Obligations.SmallIntegersConvertExactly := fun v h =>
  ⟨F32.isFinite_ofI32 v, F32.value_ofI32_small h⟩

/-- Settles O33: closed patterns, evaluated. -/
theorem floatConstants : Obligations.FloatConstants := by
  unfold Obligations.FloatConstants
  decide +kernel

/-- Settles O23: both operands of the quotient are exact, so it is `t10 / 10` rounded once. -/
theorem temperatureIsTheNearestBinary32 : Obligations.TemperatureIsTheNearestBinary32 := by
  intro t10 y hsmall hy
  obtain ⟨hten, htenUnits, htenValue⟩ := F32.ten_facts
  have hbits : (bits t10).toInt = t10 := by rw [toInt_bits, wrapS_eq_self (by omega) (by omega)]
  have hvalue : F32.value (F32.ofI32 (bits t10)) = t10 := by
    rw [F32.value_ofI32_small (by rw [hbits]; exact hsmall), hbits]
  have hunits : F32.units (F32.ofI32 (bits t10)) = t10.natAbs * 2 ^ 149 := by
    rw [F32.units_ofI32_small (by rw [hbits]; exact hsmall), hbits]
  have hround := F32.div_finite (F32.nanOf 0) (F32.isFinite_ofI32 (bits t10)) hten
    (by rw [htenUnits]; positivity)
  have hquotient := F32.signed_units_quotient (F32.ofI32 (bits t10)) F32.ten
  rw [hvalue, htenValue] at hquotient
  have hfinite : F32.isFinite (celsius t10) = true := by
    rw [celsius, hround]
    refine F32.isFinite_round ((F32.scaleOf_le (k := 149) ?_).trans (by decide))
    rw [hunits, htenUnits]
    omega
  refine ⟨hfinite, ?_⟩
  rw [celsius, hround] at hfinite ⊢
  rw [← hquotient]
  exact (roundingIsToNearestEven _ _ _ y (by rw [htenUnits]; positivity) hy hfinite).1

/-- Settles O32: the magnitudes are equal, and so are the signs. -/
theorem equalPressureHasRatioOne : Obligations.EqualPressureHasRatioOne := by
  intro nan p hp
  have hpos : 0 < F32.units (F32.ofI32 p) := by
    have hrange := F32.units_ofI32_range hp
    omega
  rw [altRatio_eq_round nan p hp, Bool.xor_self, F32.round_self hpos]

/-- Settles O29: the altitude of the model is that of the rule, with the NaN patterns the state's free
values give. -/
theorem compAltAnswersTheAltitude : Obligations.CompAltAnswersTheAltitude := by
  refine fun a b s => ⟨fun ha => ?_, fun _ => ⟨altitudeIn a s, by rw [exec_compAlt, respondOk_eq]; rfl⟩⟩
  refine ⟨altNan s 0, altNan s 1, altNan s 2, isNan_altNan s 0, isNan_altNan s 1, isNan_altNan s 2, ?_⟩
  rw [exec_compAlt_ne_zero b s ha, ← altExponent_eq]
  rfl

/-- Settles O30: the ratio is finite and below zero, where the power makes the altitude not finite,
whatever the NaN patterns. -/
theorem negativePressureAltitudeIsNotFinite : Obligations.NegativePressureAltitudeIsNotFinite := by
  intro a b s t ha hslp hnext
  have ha0 : a ≠ 0 := by
    rintro rfl
    exact absurd ha (by decide)
  rw [exec_compAlt_ne_zero b s ha0] at hnext
  cases hnext
  refine ⟨_, rfl, ?_⟩
  have hpower := altFromPower_negative_ratio (altRatio_negative (altNan s 0) ha hslp)
  rw [← Bool.not_eq_true] at hpower ⊢
  intro hfinite
  refine hpower ?_
  rw [altFromPower_finite (isNan_altNan s 1) (F32.isNan_nanOf 0) (isNan_altNan s 2) hfinite]
  exact hfinite

/-- Settles O31: the ratio is that of the test point, where the power makes the altitude near 645. -/
theorem altitudeAtTheTestPoint : Obligations.AltitudeAtTheTestPoint := by
  intro b s t hslp hnext
  rw [exec_compAlt_ne_zero b s (by decide), hslp] at hnext
  cases hnext
  refine ⟨_, rfl, ?_⟩
  have hnan : F32.isNan (F32.nanOf 0) = true := F32.isNan_nanOf 0
  rw [altitude, altRatio_test,
    altFromPower_finite hnan (isNan_altNan s 1) hnan (near645_value near645_pow32).1]
  exact near645_value near645_pow32

end Sys2Proof
end

section
/-! PROOF. Host sequences (spec/47_host_sequences.md R150 to R159): where the host stands in a sequence, what
one statement, one acquisition and one request with its response do to that, and the sequences put together
from these. -/

namespace Sys2Proof.Machine
open Rules

/-! ## Runs to a state with a property -/

/-- A run of `n` steps from `s` answers a state with the property `P`. -/
def Reaches (n : Nat) (s : State) (P : State → Prop) : Prop :=
  ∃ t, Host.Core.run core n s = .next t ∧ P t

/-- One step. -/
theorem Reaches.of_step {s t : State} {P : State → Prop} (h : step s = .next t) (ht : P t) :
    Reaches 1 s P :=
  ⟨t, run_succ h 0, ht⟩

/-- A run of one step is a step. -/
theorem step_of_run_one {s t : State} (h : Host.Core.run core 1 s = .next t) : step s = .next t := by
  rcases hstep : step s with u | f | r
  · rw [run_succ hstep] at h
    exact h
  · simp only [Host.Core.run, core, hstep] at h
    cases h
  · simp only [Host.Core.run, core, hstep] at h
    cases h

/-- Runs put together. -/
theorem Reaches.trans {m n : Nat} {s : State} {P Q : State → Prop} (h : Reaches m s P)
    (hnext : ∀ t, P t → Reaches n t Q) : Reaches (m + n) s Q := by
  obtain ⟨t, hrun, ht⟩ := h
  obtain ⟨u, hrun', hu⟩ := hnext t ht
  exact ⟨u, (run_add n hrun).trans hrun', hu⟩

/-! ## Where the host stands

The section's variables are what a sequence leaves alone, the unit `s₀` and the calls `cs` to come, and what
it does not: the statements left, the host's variables, the answers to come and the record so far. -/

/-- The host stands in a sequence with these statements left, its request answered or none awaited, and the
unit as it was in `s₀`. -/
structure HostAt (s₀ : State) (cs : List HostCall) (aw : Option ReqSource) (todo : List Stmt)
    (v : HostVars) (as : List BusAnswer) (log : List BusEvent) (s : State) : Prop where
  sameUnit : SameUnit s₀ s
  request : s.request = none
  awaiting : s.host.awaiting = aw
  calls : s.host.calls = cs
  todo : s.host.todo = todo
  vars : s.host.vars = v
  answers : s.answers = as
  busLog : s.busLog = log

/-- The sequence has ended, the unit as it was in `s₀`. -/
structure Finished (s₀ : State) (cs : List HostCall) (e : HostEnd) (as : List BusAnswer)
    (log : List BusEvent) (s : State) : Prop where
  sameUnit : SameUnit s₀ s
  ended : Ended e cs s
  answers : s.answers = as
  busLog : s.busLog = log

section Sequence

variable {s₀ s : State} {cs : List HostCall} {aw : Option ReqSource} {todo : List Stmt}
  {v : HostVars} {as : List BusAnswer} {log : List BusEvent}

/-- The sensor of the unit. -/
theorem HostAt.busAddr_eq (h : HostAt s₀ cs aw todo v as log s) : s.cfg.busAddr = s₀.cfg.busAddr :=
  congrArg Config.busAddr h.sameUnit.1

/-- The level of the unit. -/
theorem HostAt.oss_eq (h : HostAt s₀ cs aw todo v as log s) : s.oss = s₀.oss := h.sameUnit.2.2.1

/-- A transaction uses up one answer and leaves one event. -/
theorem HostAt.transact {a : BusAnswer} (h : HostAt s₀ cs aw todo v (a :: as) log s) (e : BusEvent) :
    HostAt s₀ cs aw todo v as (log ++ [e]) (transact e s) where
  sameUnit := h.sameUnit
  request := h.request
  awaiting := h.awaiting
  calls := h.calls
  todo := h.todo
  vars := h.vars
  answers := by rw [transact_eq, h.answers, List.tail_cons]
  busLog := by rw [transact_eq, h.busLog]

/-- A wait leaves one event. -/
theorem HostAt.logEvent (h : HostAt s₀ cs aw todo v as log s) (e : BusEvent) :
    HostAt s₀ cs aw todo v as (log ++ [e]) (s.logEvent e) where
  sameUnit := h.sameUnit
  request := h.request
  awaiting := h.awaiting
  calls := h.calls
  todo := h.todo
  vars := h.vars
  answers := h.answers
  busLog := by rw [State.logEvent_busLog, h.busLog]

/-- The host's variables replaced. -/
theorem HostAt.setVars (h : HostAt s₀ cs aw todo v as log s) (v' : HostVars) :
    HostAt s₀ cs aw todo v' as log (setVars v' s) where
  sameUnit := h.sameUnit
  request := h.request
  awaiting := h.awaiting
  calls := h.calls
  todo := h.todo
  vars := rfl
  answers := h.answers
  busLog := h.busLog

/-- The end of a sequence. -/
theorem HostAt.endSequence (h : HostAt s₀ cs aw todo v as log s) (e : HostEnd) :
    Finished s₀ cs e as log (endSequence e s) where
  sameUnit := h.sameUnit
  ended := ⟨rfl, rfl, rfl, h.calls, h.request⟩
  answers := h.answers
  busLog := h.busLog

/-- The host takes its next statement off the list and executes it. -/
theorem HostAt.step_stmt {st : Stmt} {P : State → Prop} (h : HostAt s₀ cs none (st :: todo) v as log s)
    (hrun : ∀ u, HostAt s₀ cs none todo v as log u → ∃ t, runStmt st u = .next t ∧ P t) :
    Reaches 1 s P := by
  obtain ⟨t, hnext, ht⟩ := hrun (s.setHost { s.host with todo := todo })
    ⟨h.sameUnit, h.request, h.awaiting, h.calls, rfl, h.vars, h.answers, h.busLog⟩
  refine .of_step ?_ ht
  rw [step_host h.request, hostStep_stmt h.awaiting h.todo]
  exact hnext

/-! ## Statements on the bus -/

/-- A write the environment lets succeed. -/
theorem memWrite_scripted_ok {x : List Byte} (h : s.answers = .ok x :: as) (addr : Byte)
    (data : List Byte) :
    memWrite addr data s = (none, transact (.write s.cfg.busAddr addr data true) s) := by
  simp [memWrite, writeOutcome, nextAnswer_scripted h, answerOk]

/-- A write the environment lets fail. -/
theorem memWrite_scripted_err {e : BusErr} (h : s.answers = .err e :: as) (addr : Byte)
    (data : List Byte) :
    memWrite addr data s = (some e, transact (.write s.cfg.busAddr addr data false) s) := by
  simp [memWrite, writeOutcome, nextAnswer_scripted h, answerOk]

/-- `BUS.WR` of a described byte that succeeds. -/
theorem HostAt.step_busWr {x : List Byte} {addr byte : Byte}
    (h : HostAt s₀ cs none (.busWr addr byte :: todo) v (.ok x :: as) log s)
    (hdescribed : describedWrite addr byte = true) :
    Reaches 1 s (HostAt s₀ cs none todo v as (log ++ [.write s₀.cfg.busAddr addr [byte] true])) := by
  refine h.step_stmt fun u hu => ⟨_, ?_, hu.transact _⟩
  rw [runStmt, if_pos hdescribed, memWrite_scripted_ok hu.answers, hu.busAddr_eq]
  rfl

/-- `BUS.WR` of a described byte that fails. -/
theorem HostAt.step_busWr_err {e : BusErr} {addr byte : Byte}
    (h : HostAt s₀ cs none (.busWr addr byte :: todo) v (.err e :: as) log s)
    (hdescribed : describedWrite addr byte = true) :
    Reaches 1 s (Finished s₀ cs (.err .busError (some e)) as
      (log ++ [.write s₀.cfg.busAddr addr [byte] false])) := by
  refine h.step_stmt fun u hu => ⟨_, ?_, (hu.transact _).endSequence _⟩
  rw [runStmt, if_pos hdescribed, memWrite_scripted_err hu.answers, hu.busAddr_eq]
  rfl

/-- The pressure command that succeeds (R155). -/
theorem HostAt.step_busWrPressure {x : List Byte}
    (h : HostAt s₀ cs none (.busWrPressure :: todo) v (.ok x :: as) log s) :
    Reaches 1 s (HostAt s₀ cs none todo v as
      (log ++ [.write s₀.cfg.busAddr regCtrlMeas [controlPressure s₀.oss] true])) := by
  refine h.step_stmt fun u hu => ⟨_, ?_, hu.transact _⟩
  rw [runStmt, memWrite_scripted_ok hu.answers, hu.busAddr_eq, hu.oss_eq]
  rfl

/-- The pressure command that fails. -/
theorem HostAt.step_busWrPressure_err {e : BusErr}
    (h : HostAt s₀ cs none (.busWrPressure :: todo) v (.err e :: as) log s) :
    Reaches 1 s (Finished s₀ cs (.err .busError (some e)) as
      (log ++ [.write s₀.cfg.busAddr regCtrlMeas [controlPressure s₀.oss] false])) := by
  refine h.step_stmt fun u hu => ⟨_, ?_, (hu.transact _).endSequence _⟩
  rw [runStmt, memWrite_scripted_err hu.answers, hu.busAddr_eq, hu.oss_eq]
  rfl

/-- `BUS.RD` that succeeds with as many bytes as it asks for: the host holds them. -/
theorem HostAt.step_busRd {bytes : List Byte} {addr : Byte} {n : Nat}
    (h : HostAt s₀ cs none (.busRd addr n :: todo) v (.ok bytes :: as) log s) (hn : n ≠ 0)
    (hlen : bytes.length = n) :
    Reaches 1 s (HostAt s₀ cs none todo { v with read := bytes } as
      (log ++ [.read s₀.cfg.busAddr addr n true])) := by
  refine h.step_stmt fun u hu => ⟨_, ?_, (hu.transact _).setVars _⟩
  subst hlen
  rw [runStmt, if_neg hn, memRead_scripted_ok hu.answers, answerBytes_self, hu.busAddr_eq,
    ← hu.vars]
  rfl

/-- `BUS.RD` that fails. -/
theorem HostAt.step_busRd_err {e : BusErr} {addr : Byte} {n : Nat}
    (h : HostAt s₀ cs none (.busRd addr n :: todo) v (.err e :: as) log s) (hn : n ≠ 0) :
    Reaches 1 s (Finished s₀ cs (.err .busError (some e)) as
      (log ++ [.read s₀.cfg.busAddr addr n false])) := by
  refine h.step_stmt fun u hu => ⟨_, ?_, (hu.transact _).endSequence _⟩
  rw [runStmt, if_neg hn, memRead_scripted_err hu.answers, hu.busAddr_eq]
  rfl

/-- `WAIT`. -/
theorem HostAt.step_wait {us : Nat} (h : HostAt s₀ cs none (.wait us :: todo) v as log s) :
    Reaches 1 s (HostAt s₀ cs none todo v as (log ++ [.wait us])) :=
  h.step_stmt fun _ hu => ⟨_, rfl, hu.logEvent _⟩

/-- The wait of a pressure conversion (R155). -/
theorem HostAt.step_waitPressure (h : HostAt s₀ cs none (.waitPressure :: todo) v as log s) :
    Reaches 1 s (HostAt s₀ cs none todo v as (log ++ [.wait (pressureWait s₀.oss)])) :=
  h.step_stmt fun u hu => ⟨_, by rw [runStmt, hu.oss_eq], hu.logEvent _⟩

/-- The end of a sequence with a result that has been computed. -/
theorem HostAt.step_endOk {res : ResultVar} {x : Option Word}
    (h : HostAt s₀ cs none (.endOk res :: todo) v as log s) (hres : resultOf res v = some x) :
    Reaches 1 s (Finished s₀ cs (.ok x) as log) :=
  h.step_stmt fun u hu => ⟨_, by simp only [runStmt, hu.vars, hres], hu.endSequence _⟩

/-- The end of `TEST_CONN`, one byte having been read (R152). -/
theorem HostAt.step_checkId {id : Byte} (h : HostAt s₀ cs none (.checkId :: todo) v as log s)
    (hread : v.read = [id]) : Reaches 1 s (Finished s₀ cs (idOutcome id) as log) :=
  h.step_stmt fun u hu => by
    have hheld : heldByte u 0 = id := by rw [heldByte, hu.vars, hread]; rfl
    have huse : useHeld 1 u = u := by rw [useHeld, hu.vars, hread]; rfl
    exact ⟨_, by rw [runStmt, hheld, huse], hu.endSequence _⟩

/-! ## Requests -/

/-- A request, presented and executed: the host waits and the response is there. The operation may draw free
values and touches nothing else but the response; its response has the property `R` in every state with the
unit of `s₀`. -/
theorem HostAt.run_request {src : ReqSource} {i : Instr} {R : Response → Prop}
    (h : HostAt s₀ cs none (.request src :: todo) v as log s)
    (hword : ∀ u, u.host.vars = v → requestWord src (heldByte u) v = some (encode i))
    (hexec : ∀ u, SameUnit s₀ u → ∃ n r, R r ∧
      exec i u = .next { u with draws := u.draws + n, response := some r }) :
    Reaches 2 s fun t => ∃ r, R r ∧ t.response = some r
      ∧ HostAt s₀ cs (some src) todo v as log t := by
  refine Reaches.trans (m := 1) (n := 1)
    (P := fun t => t.request = some (encode i) ∧ HostAt s₀ cs (some src) todo v as log (t.setRequest none))
    (h.step_stmt fun u hu => ?_) fun t ⟨hpending, ht⟩ => ?_
  · have hissue : runStmt (.request src) u = issue src (encode i) (useHeld src.width u) := by
      simp only [runStmt, hu.vars, hword u hu.vars]
    have hfree : (useHeld src.width u).request = none := by rw [useHeld_draw]; exact hu.request
    refine ⟨_, hissue.trans (issue_free hfree src (encode i)), rfl, ?_⟩
    rw [useHeld_draw]
    exact ⟨hu.sameUnit, rfl, rfl, hu.calls, hu.todo, hu.vars, hu.answers, hu.busLog⟩
  · obtain ⟨n, r, hr, hnext⟩ := hexec (t.setRequest none) ht.sameUnit
    have hstep : step t = exec i (t.setRequest none) := by
      rw [step_pending hpending, acceptRequest_instr (decode_encode i)]
    exact .of_step (hstep.trans hnext) ⟨r, hr, rfl,
      ⟨ht.sameUnit, ht.request, ht.awaiting, ht.calls, ht.todo, ht.vars, ht.answers, ht.busLog⟩⟩

/-- The host takes an `OK` response and keeps its results. -/
theorem HostAt.step_take_ok {src : ReqSource} {r : Response}
    (h : HostAt s₀ cs (some src) todo v as log s) (hr : s.response = some r) (hok : r.st = .ok) :
    Reaches 1 s (HostAt s₀ cs none todo (storeResults src r v) as log) := by
  refine .of_step ((step_host h.request).trans (hostStep_take h.awaiting hr)) ?_
  rw [takeResponse, if_pos hok]
  exact ⟨h.sameUnit, h.request, rfl, h.calls, h.todo, by rw [← h.vars]; rfl, h.answers, h.busLog⟩

/-- The host takes a response that is not `OK`, which ends the sequence (R150). -/
theorem HostAt.step_take_err {src : ReqSource} {r : Response}
    (h : HostAt s₀ cs (some src) todo v as log s) (hr : s.response = some r) (herr : r.st ≠ .ok) :
    Reaches 1 s (Finished s₀ cs (.err r.st r.berr) as log) := by
  refine .of_step ((step_host h.request).trans (hostStep_take h.awaiting hr)) ?_
  rw [takeResponse, if_neg herr]
  exact ⟨h.sameUnit, ⟨rfl, rfl, rfl, h.calls, h.request⟩, h.answers, h.busLog⟩

/-- A request answered `OK` with a given response, in three steps. -/
theorem HostAt.run_request_ok {src : ReqSource} {i : Instr} {r : Response}
    (h : HostAt s₀ cs none (.request src :: todo) v as log s)
    (hword : ∀ u, u.host.vars = v → requestWord src (heldByte u) v = some (encode i))
    (hexec : ∀ u, SameUnit s₀ u → exec i u = .next { u with response := some r }) (hok : r.st = .ok) :
    Reaches 3 s (HostAt s₀ cs none todo (storeResults src r v) as log) := by
  refine Reaches.trans (m := 2) (n := 1)
    (h.run_request (R := (· = r)) hword fun u hu => ⟨0, r, rfl, hexec u hu⟩) ?_
  rintro t ⟨r', rfl, hr, ht⟩
  exact ht.step_take_ok hr hok

/-- A request answered with a given response that is not `OK`, in three steps. -/
theorem HostAt.run_request_err {src : ReqSource} {i : Instr} {r : Response}
    (h : HostAt s₀ cs none (.request src :: todo) v as log s)
    (hword : ∀ u, u.host.vars = v → requestWord src (heldByte u) v = some (encode i))
    (hexec : ∀ u, SameUnit s₀ u → exec i u = .next { u with response := some r }) (herr : r.st ≠ .ok) :
    Reaches 3 s (Finished s₀ cs (.err r.st r.berr) as log) := by
  refine Reaches.trans (m := 2) (n := 1)
    (h.run_request (R := (· = r)) hword fun u hu => ⟨0, r, rfl, hexec u hu⟩) ?_
  rintro t ⟨r', rfl, hr, ht⟩
  exact ht.step_take_err hr herr

/-! ## The bytes of an assembly -/

/-- A raw temperature holds its two bytes (R53, R90). -/
theorem bytes_rawTemperature (msb lsb : Byte) :
    byte1 (rawTemperature msb lsb) = msb ∧ byte0 (rawTemperature msb lsb) = lsb := by
  have hm := msb.isLt
  have hl := lsb.isLt
  constructor <;> apply BitVec.eq_of_toNat_eq <;>
    simp only [byte1, byte0, BitVec.extractLsb'_toNat, toNat_rawTemperature, Nat.shiftRight_eq_div_pow] <;>
    omega

/-- The three bytes of a pressure assembly (R53, R91). -/
theorem bytes_rawPressureBytes (msb lsb xlsb : Byte) :
    byte2 (rawPressureBytes msb lsb xlsb) = msb ∧ byte1 (rawPressureBytes msb lsb xlsb) = lsb
      ∧ byte0 (rawPressureBytes msb lsb xlsb) = xlsb := by
  have hm := msb.isLt
  have hl := lsb.isLt
  have hx := xlsb.isLt
  refine ⟨?_, ?_, ?_⟩ <;> apply BitVec.eq_of_toNat_eq <;>
    simp only [byte2, byte1, byte0, BitVec.extractLsb'_toNat, toNat_rawPressureBytes,
      Nat.shiftRight_eq_div_pow] <;>
    omega

/-! ## The acquisitions -/

/-- The host's variables after `ACQ.T` of two bytes (R154). -/
def acquiredT (msb lsb : Byte) (v : HostVars) : HostVars :=
  storeResults .asmUt ⟨.ok, some (rawTemperature msb lsb), none, none⟩ { v with read := [msb, lsb] }

/-- The host's variables after `ACQ.P` of three bytes at a level (R155). -/
def acquiredP (oss : BitVec 2) (msb lsb xlsb : Byte) (v : HostVars) : HostVars :=
  storeResults .asmUp ⟨.ok, some (rawPressure oss msb lsb xlsb), none, none⟩
    { v with read := [msb, lsb, xlsb] }

/-- `ACQ.T` when nothing fails (R154). -/
theorem HostAt.run_acqT {x : List Byte} {msb lsb : Byte}
    (h : HostAt s₀ cs none (bodyAcqT ++ todo) v (.ok x :: .ok [msb, lsb] :: as) log s) :
    Reaches 6 s (HostAt s₀ cs none todo (acquiredT msb lsb v) as
      (log ++ eventsAcqT s₀.cfg.busAddr)) := by
  obtain ⟨hmsb, hlsb⟩ := bytes_rawTemperature msb lsb
  have hword (u : State) (hu : u.host.vars = { v with read := [msb, lsb] }) :
      requestWord .asmUt (heldByte u) { v with read := [msb, lsb] }
        = some (encode (.asmUt (rawTemperature msb lsb) 0)) := by
    have h0 : heldByte u 0 = msb := by rw [heldByte, hu]; rfl
    have h1 : heldByte u 1 = lsb := by rw [heldByte, hu]; rfl
    rw [requestWord, h0, h1, rawTemperature]
  have hexec (u : State) (_ : SameUnit s₀ u) : exec (.asmUt (rawTemperature msb lsb) 0) u
      = .next { u with response := some ⟨.ok, some (rawTemperature msb lsb), none, none⟩ } := by
    rw [exec_asmUt, hmsb, hlsb, respondOk_eq]
  refine Reaches.trans (m := 1) (n := 5) (h.step_busWr (by decide)) fun _ h1 => ?_
  refine Reaches.trans (m := 1) (n := 4) h1.step_wait fun _ h2 => ?_
  refine Reaches.trans (m := 1) (n := 3) (h2.step_busRd (by decide) rfl) fun _ h3 => ?_
  rw [List.append_assoc, List.append_assoc] at h3
  exact h3.run_request_ok hword hexec rfl

/-- `ACQ.P` when nothing fails (R155). -/
theorem HostAt.run_acqP {x : List Byte} {msb lsb xlsb : Byte}
    (h : HostAt s₀ cs none (bodyAcqP ++ todo) v (.ok x :: .ok [msb, lsb, xlsb] :: as) log s) :
    Reaches 6 s (HostAt s₀ cs none todo (acquiredP s₀.oss msb lsb xlsb v) as
      (log ++ eventsAcqP s₀.cfg.busAddr s₀.oss)) := by
  obtain ⟨hmsb, hlsb, hxlsb⟩ := bytes_rawPressureBytes msb lsb xlsb
  have hword (u : State) (hu : u.host.vars = { v with read := [msb, lsb, xlsb] }) :
      requestWord .asmUp (heldByte u) { v with read := [msb, lsb, xlsb] }
        = some (encode (.asmUp (rawPressureBytes msb lsb xlsb) 0)) := by
    have h0 : heldByte u 0 = msb := by rw [heldByte, hu]; rfl
    have h1 : heldByte u 1 = lsb := by rw [heldByte, hu]; rfl
    have h2 : heldByte u 2 = xlsb := by rw [heldByte, hu]; rfl
    rw [requestWord, h0, h1, h2, rawPressureBytes]
  have hexec (u : State) (hu : SameUnit s₀ u) : exec (.asmUp (rawPressureBytes msb lsb xlsb) 0) u
      = .next { u with response := some ⟨.ok, some (rawPressure s₀.oss msb lsb xlsb), none, none⟩ } := by
    obtain ⟨-, -, hoss, -⟩ := hu
    rw [exec_asmUp, hmsb, hlsb, hxlsb, respondOk_eq, ← hoss]
  refine Reaches.trans (m := 1) (n := 5) h.step_busWrPressure fun _ h1 => ?_
  refine Reaches.trans (m := 1) (n := 4) h1.step_waitPressure fun _ h2 => ?_
  refine Reaches.trans (m := 1) (n := 3) (h2.step_busRd (by decide) rfl) fun _ h3 => ?_
  rw [List.append_assoc, List.append_assoc] at h3
  exact h3.run_request_ok hword hexec rfl

/-! ## The compensations -/

/-- The response to `COMP.T` of a raw temperature, its divisor not zero (R106). -/
def tempResponse (c : Cal) (ut : Word) : Response :=
  ⟨.ok, some (celsius (tT10 c ut.toInt)), some (tempB5 c ut), none⟩

/-- `COMP.T` in a sequence, its divisor not zero (R156). -/
theorem HostAt.run_compT {ut : Word} (h : HostAt s₀ cs none (.request .compT :: todo) v as log s)
    (hut : v.ut = some ut) (hden : tDen s₀.cal ut.toInt ≠ 0) :
    Reaches 3 s (HostAt s₀ cs none todo (storeResults .compT (tempResponse s₀.cal ut) v) as log) := by
  refine h.run_request_ok (i := .compT ut 0) (fun u _ => by rw [requestWord, hut]) (fun u hu => ?_) rfl
  obtain ⟨-, hcal, -⟩ := hu
  rw [compTAnswersTemperatureAndB5 ut 0 u (by rw [hcal]; exact hden), hcal, ← toInt_tempB5, bits_toInt]
  rfl

/-- `COMP.P` in a sequence, where the rules give a pressure (R157). -/
theorem HostAt.run_compP {up b5 : Word} {p : Int}
    (h : HostAt s₀ cs none (.request .compP :: todo) v as log s)
    (hup : v.up = some up) (hb5 : v.b5 = some b5)
    (hrule : pressureRule s₀.cal s₀.oss.toNat up.toInt b5.toInt = some p) :
    Reaches 3 s (HostAt s₀ cs none todo
      (storeResults .compP ⟨.ok, some (bits p), none, none⟩ v) as log) := by
  refine h.run_request_ok (i := .compP up b5) (fun u _ => by rw [requestWord, hup, hb5])
    (fun u hu => ?_) rfl
  obtain ⟨-, hcal, hoss, -⟩ := hu
  exact (compPAnswersThePressure up b5 u p (by rw [hcal, hoss]; exact hrule)).1

/-- What `COMP.ALT` answers for a pressure against the reference of the unit (R134, R135). -/
def AltitudeOf (slp p : Word) (alt : F32) : Prop :=
  p ≠ 0 → ∃ n1 n2 n3 : F32, F32.isNan n1 = true ∧ F32.isNan n2 = true ∧ F32.isNan n3 = true
    ∧ alt = altitude n1 n2 n3 p slp

/-- `COMP.ALT` in a sequence (R158). -/
theorem HostAt.run_compAlt {p : Word} (h : HostAt s₀ cs none (.request .compAlt :: todo) v as log s)
    (hp : v.pressure = some p) :
    Reaches 3 s fun t => ∃ alt, AltitudeOf s₀.slp p alt ∧ HostAt s₀ cs none todo
      (storeResults .compAlt ⟨.ok, some alt, none, none⟩ v) as log t := by
  refine Reaches.trans (m := 2) (n := 1) (h.run_request (i := .compAlt p 0)
    (R := fun r => ∃ alt, AltitudeOf s₀.slp p alt ∧ r = ⟨.ok, some alt, none, none⟩)
    (fun u _ => by rw [requestWord, hp]) fun u hu => ?_) ?_
  · refine ⟨3, _, ⟨altitudeIn p u, fun hne => ?_, rfl⟩, exec_compAlt p 0 u⟩
    obtain ⟨-, -, -, hslp, -⟩ := hu
    exact ⟨_, _, _, isNan_altNan u 0, isNan_altNan u 1, isNan_altNan u 2, by
      rw [altitudeIn, if_neg hne, hslp]⟩
  · rintro t ⟨r, ⟨alt, halt, rfl⟩, hr, ht⟩
    obtain ⟨t', hrun, ht'⟩ := ht.step_take_ok hr rfl
    exact ⟨t', hrun, alt, halt, ht'⟩

/-! ## The beginning of a sequence -/

/-- A sequence that is no construction begins with its own statements and no variable (R150). -/
theorem beginCall_eq {c : HostCall} (hc : ∀ cfg, c ≠ .new cfg) (s : State) :
    beginCall c s = s.setHost { s.host with todo := expand c, vars := HostVars.fresh } := by
  cases c with
  | new cfg => exact absurd rfl (hc cfg)
  | _ => rfl

/-- The first step of a sequence. -/
theorem step_of_begins {c : HostCall} (h : Begins c cs s) (hc : ∀ cfg, c ≠ .new cfg) :
    Reaches 1 s (HostAt s cs none (expand c) HostVars.fresh s.answers s.busLog) := by
  obtain ⟨hfree, hwait, htodo, hcalls⟩ := h
  refine .of_step ((step_host hfree).trans (hostStep_begin hwait htodo hcalls)) ?_
  rw [beginCall_eq hc]
  exact ⟨⟨rfl, rfl, rfl, rfl, rfl⟩, hfree, hwait, rfl, rfl, rfl, rfl, rfl⟩

/-- The host's variables after both acquisitions of `READ_P` (R157). -/
def acquiredBoth (oss : BitVec 2) (msb lsb pm pl px : Byte) : HostVars :=
  acquiredP oss pm pl px (acquiredT msb lsb HostVars.fresh)

/-- A sequence that begins with both acquisitions, when nothing fails (R157). -/
theorem run_acquisitions_of_begins {c : HostCall} {x y : List Byte} {msb lsb pm pl px : Byte}
    (h : Begins c cs s) (hc : ∀ cfg, c ≠ .new cfg) (hbody : expand c = bodyAcqT ++ (bodyAcqP ++ todo))
    (hanswers : s.answers = .ok x :: .ok [msb, lsb] :: .ok y :: .ok [pm, pl, px] :: as) :
    Reaches 13 s (HostAt s cs none todo (acquiredBoth s.oss msb lsb pm pl px) as
      (s.busLog ++ (eventsAcqT s.cfg.busAddr ++ eventsAcqP s.cfg.busAddr s.oss))) := by
  refine Reaches.trans (m := 1) (n := 12) (step_of_begins h hc) fun _ h1 => ?_
  rw [hbody, hanswers] at h1
  refine Reaches.trans (m := 6) (n := 6) h1.run_acqT fun _ h2 => ?_
  have h3 := h2.run_acqP
  rwa [List.append_assoc] at h3

/-- A sequence that begins as `READ_P` does, when nothing fails: after both acquisitions, both
compensations (R157). -/
theorem run_pressure_of_begins {c : HostCall} {x y : List Byte} {msb lsb pm pl px : Byte} {p : Int}
    (h : Begins c cs s) (hc : ∀ cfg, c ≠ .new cfg) (hbody : expand c = bodyPressure ++ todo)
    (hanswers : s.answers = .ok x :: .ok [msb, lsb] :: .ok y :: .ok [pm, pl, px] :: as)
    (hden : tDen s.cal (utOf msb lsb) ≠ 0)
    (hrule : pressureRule s.cal s.oss.toNat (upOf s.oss pm pl px) (tB5 s.cal (utOf msb lsb)) = some p) :
    Reaches 19 s fun t => ∃ v, v.pressure = some (bits p) ∧ HostAt s cs none todo v as
      (s.busLog ++ (eventsAcqT s.cfg.busAddr ++ eventsAcqP s.cfg.busAddr s.oss)) t := by
  rw [← toInt_rawTemperature_eq_utOf] at hden hrule
  rw [← toInt_rawPressure_eq_upOf, ← toInt_tempB5] at hrule
  rw [bodyPressure, List.append_assoc, List.append_assoc] at hbody
  refine Reaches.trans (m := 13) (n := 6) (run_acquisitions_of_begins h hc hbody hanswers) fun _ h1 => ?_
  refine Reaches.trans (m := 3) (n := 3) (h1.run_compT rfl hden) fun _ h2 => ?_
  obtain ⟨t, hrun, ht⟩ := h2.run_compP rfl rfl hrule
  exact ⟨t, hrun, _, rfl, ht⟩

end Sequence

end Sys2Proof.Machine

namespace Sys2Proof
open Machine Rules

/-- Settles O50: the one step of a construction. -/
theorem newConstructsTheUnit : Obligations.NewConstructsTheUnit := by
  intro s cfg cs ⟨hfree, hwait, htodo, hcalls⟩
  exact ⟨_, (step_host hfree).trans (hostStep_begin hwait htodo hcalls), ⟨rfl, rfl, rfl, rfl, rfl⟩,
    ⟨rfl, rfl, rfl, rfl, rfl⟩, rfl, rfl, rfl⟩

/-- Settles O51: one read, then the comparison of its byte, or the failure. -/
theorem testConnOutcomes : Obligations.TestConnOutcomes := by
  intro s cs rest h
  constructor
  · intro id hanswers
    have hend : Reaches 3 s (Finished s cs (idOutcome id) rest
        (s.busLog ++ [.read s.cfg.busAddr regId 1 true])) := by
      refine Reaches.trans (m := 1) (n := 2) (step_of_begins h (by simp)) fun _ h1 => ?_
      rw [hanswers] at h1
      exact Reaches.trans (m := 1) (n := 1) (h1.step_busRd (by decide) rfl) fun _ h2 =>
        h2.step_checkId rfl
    obtain ⟨t, hrun, hunit, hended, hrest, hlog⟩ := hend
    exact ⟨t, hrun, hunit, hrest, hlog, hended⟩
  · intro e hanswers
    have hend : Reaches 2 s (Finished s cs (.err .busError (some e)) rest
        (s.busLog ++ [.read s.cfg.busAddr regId 1 false])) := by
      refine Reaches.trans (m := 1) (n := 1) (step_of_begins h (by simp)) fun _ h1 => ?_
      rw [hanswers] at h1
      exact h1.step_busRd_err (by decide)
    obtain ⟨t, hrun, hunit, hended, hrest, hlog⟩ := hend
    exact ⟨t, hrun, hunit, hrest, hlog, hended⟩

/-- Settles O56: one write, then the end, or the failure. -/
theorem softResetLeavesTheUnitAlone : Obligations.SoftResetLeavesTheUnitAlone := by
  intro s cs rest h
  constructor
  · intro x hanswers
    have hend : Reaches 3 s (Finished s cs (.ok none) rest
        (s.busLog ++ [.write s.cfg.busAddr regSoftRst [softResetByte] true])) := by
      refine Reaches.trans (m := 1) (n := 2) (step_of_begins h (by simp)) fun _ h1 => ?_
      rw [hanswers] at h1
      exact Reaches.trans (m := 1) (n := 1) (h1.step_busWr (by decide)) fun _ h2 => h2.step_endOk rfl
    obtain ⟨t, hrun, hunit, hended, -, hlog⟩ := hend
    exact ⟨t, hrun, hended, hunit, hlog⟩
  · intro e hanswers
    have hend : Reaches 2 s (Finished s cs (.err .busError (some e)) rest
        (s.busLog ++ [.write s.cfg.busAddr regSoftRst [softResetByte] false])) := by
      refine Reaches.trans (m := 1) (n := 1) (step_of_begins h (by simp)) fun _ h1 => ?_
      rw [hanswers] at h1
      exact h1.step_busWr_err (by decide)
    obtain ⟨t, hrun, hunit, hended, -, hlog⟩ := hend
    exact ⟨t, hrun, hended, hunit, hlog⟩

/-- Settles O52: the acquisition, the compensation, the end. -/
theorem readTemperatureSequence : Obligations.ReadTemperatureSequence := by
  intro s cs x msb lsb rest h hanswers hden
  rw [← toInt_rawTemperature_eq_utOf] at hden
  have hend : Reaches 11 s (Finished s cs (.ok (some (celsius (tT10 s.cal (utOf msb lsb))))) rest
      (s.busLog ++ eventsAcqT s.cfg.busAddr)) := by
    refine Reaches.trans (m := 1) (n := 10) (step_of_begins h (by simp)) fun _ h1 => ?_
    rw [hanswers] at h1
    refine Reaches.trans (m := 6) (n := 4) (h1.run_acqT (todo := [.request .compT, .endOk .temperature]))
      fun _ h2 => ?_
    refine Reaches.trans (m := 3) (n := 1) (h2.run_compT rfl hden) fun _ h3 => ?_
    rw [← toInt_rawTemperature_eq_utOf]
    exact h3.step_endOk rfl
  obtain ⟨t, hrun, hunit, hended, hrest, hlog⟩ := hend
  exact ⟨t, hrun, hended, hunit, hrest, hlog⟩

/-- Settles O53: both acquisitions, both compensations, the end. -/
theorem readPressureSequence : Obligations.ReadPressureSequence := by
  intro s cs x y msb lsb pm pl px rest p h hanswers hden hrule
  obtain ⟨t, hrun, hunit, hended, hrest, hlog⟩ := Reaches.trans (m := 19) (n := 1)
    (run_pressure_of_begins h (todo := [.endOk .pressure]) (by simp) rfl hanswers hden hrule)
    (Q := Finished s cs (.ok (some (bits p))) rest
      (s.busLog ++ (eventsAcqT s.cfg.busAddr ++ eventsAcqP s.cfg.busAddr s.oss)))
    fun _ ⟨v, hv, h1⟩ => h1.step_endOk (by rw [resultOf, hv]; rfl)
  exact ⟨t, hrun, hended, hunit, hrest, hlog⟩

/-- Settles O54: what `READ_P` does, then the altitude of its pressure, the end. -/
theorem readAltitudeSequence : Obligations.ReadAltitudeSequence := by
  intro s cs x y msb lsb pm pl px rest p h hanswers hden hrule
  have hend : Reaches 23 s fun t => ∃ alt, AltitudeOf s.slp (bits p) alt
      ∧ Finished s cs (.ok (some alt)) rest
        (s.busLog ++ (eventsAcqT s.cfg.busAddr ++ eventsAcqP s.cfg.busAddr s.oss)) t := by
    refine Reaches.trans (m := 19) (n := 4) (run_pressure_of_begins h
      (todo := [.request .compAlt, .endOk .altitude]) (by simp) rfl hanswers hden hrule) ?_
    rintro _ ⟨v, hv, h1⟩
    refine Reaches.trans (m := 3) (n := 1) (h1.run_compAlt hv) ?_
    rintro _ ⟨alt, halt, h2⟩
    obtain ⟨t, hrun, ht⟩ := h2.step_endOk (x := some alt) rfl
    exact ⟨t, hrun, alt, halt, ht⟩
  obtain ⟨t, hrun, alt, halt, hunit, hended, hrest, hlog⟩ := hend
  refine ⟨t, alt, hrun, hunit, hrest, hended, fun hp => halt fun hzero => hp ?_, hlog⟩
  have hvalue := (compPAnswersThePressure _ _ s p (by
    rw [← toInt_rawPressure_eq_upOf, ← toInt_rawTemperature_eq_utOf, ← toInt_tempB5] at hrule
    exact hrule)).2
  rw [← hvalue, hzero]
  rfl

/-- Settles O55: both acquisitions, and `COMP.T` with a zero divisor, which ends the sequence. -/
theorem readBeforeInitFailsInCompensation : Obligations.ReadBeforeInitFailsInCompensation := by
  intro s cs x y msb lsb pm pl px rest h hcal hanswers
  have hend : Reaches 16 s (Finished s cs (.err .tempDivZero none) rest
      (s.busLog ++ (eventsAcqT s.cfg.busAddr ++ eventsAcqP s.cfg.busAddr s.oss))) := by
    refine Reaches.trans (m := 13) (n := 3) (run_acquisitions_of_begins h
      (todo := [.request .compT, .request .compP, .endOk .pressure]) (by simp) rfl hanswers)
      fun _ h1 => ?_
    refine h1.run_request_err (i := .compT (rawTemperature msb lsb) 0)
      (r := ⟨.tempDivZero, none, none, none⟩) (fun _ _ => rfl) (fun u hu => ?_) (by decide)
    exact (zeroCalibrationFailsByValue _ 0 u (hu.2.1.trans hcal)).1
  obtain ⟨t, hrun, hunit, hended, hrest, hlog⟩ := hend
  exact ⟨t, hrun, hended, hunit, hrest, hlog⟩

/-- Settles O57: the failing end of each statement on the bus, and of a response that is not `OK`. -/
theorem failureEndsTheSequence : Obligations.FailureEndsTheSequence := by
  constructor
  · intro s st todo rest e ev hfree hwait htodo hanswers hst
    have hat : HostAt s s.host.calls none (st :: todo) s.host.vars (.err e :: rest) s.busLog s :=
      ⟨⟨rfl, rfl, rfl, rfl, rfl⟩, hfree, hwait, rfl, htodo, rfl, hanswers, rfl⟩
    have hend : Reaches 1 s (Finished s s.host.calls (.err .busError (some e)) rest
        (s.busLog ++ [ev])) := by
      rcases hst with ⟨addr, byte, rfl, hdescribed, rfl⟩ | ⟨rfl, rfl⟩ | ⟨addr, n, rfl, hn, rfl⟩
      · exact hat.step_busWr_err hdescribed
      · exact hat.step_busWrPressure_err
      · exact hat.step_busRd_err hn.ne'
    obtain ⟨t, hrun, hunit, hended, hrest, hlog⟩ := hend
    exact ⟨t, step_of_run_one hrun, hended, hunit, hrest, hlog⟩
  · intro s src r hfree hwait hr herr
    have hat : HostAt s s.host.calls (some src) s.host.todo s.host.vars s.answers s.busLog s :=
      ⟨⟨rfl, rfl, rfl, rfl, rfl⟩, hfree, hwait, rfl, rfl, rfl, rfl, rfl⟩
    obtain ⟨t, hrun, hunit, hended, hrest, hlog⟩ := hat.step_take_err hr herr
    exact ⟨t, step_of_run_one hrun, hended, hunit, hlog, hrest⟩

end Sys2Proof
end
